-- ==== Sys2Proof/Word.lean ====
section
/-! DEFINITION. The units of data of the zscan frame codec (ZFC): the byte and the 16-bit word (R7, R8, R9), and the
two kinds of code a row of spec/opcode_table.json encodes (R89): a command word, or the opcode byte of a catalog frame.
The bit-field and byte-order helpers stand in Sys2Proof/Machine/Operands.lean. -/

namespace Sys2Proof

/-- BYTE of R7: 8 bits, unsigned. -/
abbrev Byte := BitVec 8

/-- CK_WIDTH of R7 and CMD_WIDTH of R8: 16 bits, unsigned. -/
abbrev Word := BitVec 16

/-- What the HOST can ask for by code. A `CMD` row of the opcode table is a 16-bit command word (R70). A `FRAME` row is
the first payload byte of a catalog frame (R89); the ZFC never sees it as a command, the HOST's assembler expands it
(R87, R180). -/
inductive Code where
  | cmd (w : Word)
  | frame (b : Byte)
  deriving DecidableEq, Repr, Inhabited

end Sys2Proof
end

