-- ==== Sys2Proof/Machine/Operands.lean ====
section
/-! DEFINITION. Bit fields, widening and byte order (R9, R52), the fields of a command word (R71, R73), and the one place
where the length byte's `+ 1` is made (R123). -/

namespace Sys2Proof

/-- `zext_16(b)` of R9. -/
def zext16 (b : Byte) : Word := b.zeroExtend 16

/-- `hi(v) = v[15:8]` of R9. -/
def hi (v : Word) : Byte := v.extractLsb' 8 8

/-- `lo(v) = v[7:0]` of R9. -/
def lo (v : Word) : Byte := v.extractLsb' 0 8

/-- `be16(h, l) = h * 256 + l` of R9: the high byte comes first (R52). -/
def be16 (h l : Byte) : Word := zext16 h * 256 + zext16 l

/-- OP, bits [15:12] of a command word (R71). -/
def opField (w : Word) : BitVec 4 := w.extractLsb' 12 4

/-- RSV, bits [11:8] of a command word (R71). -/
def rsvField (w : Word) : BitVec 4 := w.extractLsb' 8 4

/-- IMM8, bits [7:0] of a command word (R71), used unsigned and never sign-extended (R73). -/
def immField (w : Word) : Byte := w.extractLsb' 0 8

/-- `match | imm`, the encoding of a mnemonic and its operand (R86). -/
def commandWord (matchBits : Word) (imm : Byte) : Word := matchBits ||| zext16 imm

/-- The length byte of a frame with a payload of `n` bytes, `n + 1` (R80, R123). -/
def lengthByte (n : Byte) : Byte := n + 1

/-- The bytes that follow length byte `L`, `(L - 1) + 2` in 9 bits (R153, R159). -/
def remainingAfter (l : Byte) : BitVec 9 := (l.zeroExtend 9 - 1) + 2

end Sys2Proof
end

