-- ==== Sys2Proof/Syntax.lean ====
section
/-! DEFINITION. The instructions: one constructor for each row of spec/opcode_table.json. The first eight are the command
words of R72 (format `CMD`); the last five are the catalog frames of R181 to R185 (format `FRAME`). An operand is the
8-bit field IMM8 (R73), so every value of the type is an instruction the encoding admits. -/

namespace Sys2Proof

inductive Instr where
  /-- `NOP`, R194. -/
  | nop
  /-- `CK_CLR`, R106. -/
  | ckClr
  /-- `CK_ADD b`, R107. -/
  | ckAdd (b : Byte)
  /-- `CK_RD`, R108. -/
  | ckRd
  /-- `ENC_START n`, R126. -/
  | encStart (n : Byte)
  /-- `ENC_PUSH b`, R128. -/
  | encPush (b : Byte)
  /-- `PAR_START`, R158. -/
  | parStart
  /-- `STAT_RD`, R195. -/
  | statRd
  /-- `AIM_ON`, R181. -/
  | aimOn
  /-- `AIM_OFF`, R182. -/
  | aimOff
  /-- `ILLUMINATION_ON`, R183. -/
  | illuminationOn
  /-- `ILLUMINATION_OFF`, R184. -/
  | illuminationOff
  /-- `CAPABILITIES_REQUEST`, R185. -/
  | capabilitiesRequest
  deriving DecidableEq, Repr, Inhabited

end Sys2Proof
end

