-- ==== Sys2Proof/WellFormed.lean ====
section
/-! DEFINITION. Well-formedness of what is written before it is decoded: a code (R74 to R77, and the five opcodes of
R181 to R185), and a line of the spec's assembler syntax (R86). A value of `Instr` needs no check: its operand is 8 bits
by its type (R73). -/

namespace Sys2Proof

/-- The operations that take no operand, so that IMM8 must be 0 (R75). -/
def noOperand (op : BitVec 4) : Bool :=
  op == 0x0 || op == 0x1 || op == 0x3 || op == 0x6 || op == 0x7

/-- A command word is legal when OP is below 8 (R76), RSV is 0 (R74), and IMM8 is 0 where OP takes no operand (R75). -/
def wordLegal (w : Word) : Bool :=
  !w.msb && rsvField w == 0 && (!noOperand (opField w) || immField w == 0)

/-- The five opcodes of the catalog (R181 to R185). -/
def catalogOpcodes : List Byte := [0xC5, 0xC4, 0xC1, 0xC0, 0xD3]

/-- A code is well formed when it is a legal command word or the opcode of a catalog entry. -/
def Code.wellFormed : Code → Bool
  | .cmd w => wordLegal w
  | .frame b => catalogOpcodes.contains b

/-- The mnemonics of the command words (R72). -/
inductive Mnemonic where
  | NOP | CK_CLR | CK_ADD | CK_RD | ENC_START | ENC_PUSH | PAR_START | STAT_RD
  deriving DecidableEq, Repr, Inhabited

/-- One line of the assembler syntax of R86: a mnemonic and, for three of them, an integer operand. -/
structure AsmLine where
  mnemonic : Mnemonic
  operand : Option Nat
  deriving DecidableEq, Repr, Inhabited

/-- The mnemonics that take the one operand (R86). -/
def Mnemonic.takesOperand : Mnemonic → Bool
  | .CK_ADD | .ENC_START | .ENC_PUSH => true
  | .NOP | .CK_CLR | .CK_RD | .PAR_START | .STAT_RD => false

/-- A line is well formed when the operand stands exactly where R86 wants it and is an integer 0 to 255. -/
def AsmLine.wellFormed (l : AsmLine) : Bool :=
  l.operand.isSome == l.mnemonic.takesOperand && l.operand.all (· ≤ 255)

end Sys2Proof
end

