-- ==== Sys2Proof/Decode.lean ====
section
/-! DEFINITION. The decoder (R77 for command words; R89 with R181 to R185 for the opcode byte of a catalog frame), total
and rejecting by name, and after it the encoder and the assembler (R72, R86). -/

namespace Sys2Proof

/-- Why a code does not decode. -/
inductive DecodeReject where
  /-- OP 0x8 to 0xF (R76). -/
  | reservedOp
  /-- RSV is not 0 (R74). -/
  | rsvNotZero
  /-- IMM8 is not 0 on an operation without an operand (R75). -/
  | immNotZero
  /-- The byte is none of the catalog's five opcodes (R180 to R185). -/
  | notInCatalog
  deriving DecidableEq, Repr, Inhabited

/-- An operation without an operand decodes only with IMM8 = 0 (R75). -/
def bare (imm : Byte) (i : Instr) : Except DecodeReject Instr :=
  if imm = 0 then .ok i else .error .immNotZero

/-- `decode(w)` of R77: the reserved operations first, then RSV, then IMM8. -/
def decodeWord (w : Word) : Except DecodeReject Instr :=
  if 8 ≤ (opField w).toNat then .error .reservedOp
  else if rsvField w ≠ 0 then .error .rsvNotZero
  else match (opField w).toNat with
    | 0 => bare (immField w) .nop
    | 1 => bare (immField w) .ckClr
    | 2 => .ok (.ckAdd (immField w))
    | 3 => bare (immField w) .ckRd
    | 4 => .ok (.encStart (immField w))
    | 5 => .ok (.encPush (immField w))
    | 6 => bare (immField w) .parStart
    | 7 => bare (immField w) .statRd
    | _ => .error .reservedOp

/-- The catalog entry an opcode byte names (R181 to R185). -/
def decodeOpcode (b : Byte) : Except DecodeReject Instr :=
  if b = 0xC5 then .ok .aimOn
  else if b = 0xC4 then .ok .aimOff
  else if b = 0xC1 then .ok .illuminationOn
  else if b = 0xC0 then .ok .illuminationOff
  else if b = 0xD3 then .ok .capabilitiesRequest
  else .error .notInCatalog

/-- The decoder: it reads only the code, never the state (R78). -/
def decode : Code → Except DecodeReject Instr
  | .cmd w => decodeWord w
  | .frame b => decodeOpcode b

/-- The code whose bits are `w` and which the table gives `nbits` bits: a `CMD` row has 16, a `FRAME` row 8. -/
def codeOfBits (nbits w : Nat) : Option Code :=
  if nbits = 16 then some (.cmd (BitVec.ofNat 16 w))
  else if nbits = 8 then some (.frame (BitVec.ofNat 8 w))
  else none

/-- The instruction the decoder reads from the bits `w`, numbered as spec/opcode_table.json numbers them. -/
def decodeTableWord (nbits w : Nat) : Option Instr :=
  (codeOfBits nbits w).bind fun c => (decode c).toOption

/-- `CK_ADD b` (R107). -/
def ckAddWord (b : Byte) : Word := commandWord 0x2000 b

/-- `ENC_START n` (R126). -/
def encStartWord (n : Byte) : Word := commandWord 0x4000 n

/-- `ENC_PUSH b` (R128). -/
def encPushWord (b : Byte) : Word := commandWord 0x5000 b

/-- `CK_RD` (R108). -/
def ckRdWord : Word := 0x3000

/-- `PAR_START` (R158). -/
def parStartWord : Word := 0x6000

/-- `STAT_RD` (R195). -/
def statRdWord : Word := 0x7000

/-- The encoder: the match column of R72 with the operand in IMM8, and the opcode bytes of R181 to R185. -/
def encode : Instr → Code
  | .nop => .cmd 0x0000
  | .ckClr => .cmd 0x1000
  | .ckAdd b => .cmd (ckAddWord b)
  | .ckRd => .cmd ckRdWord
  | .encStart n => .cmd (encStartWord n)
  | .encPush b => .cmd (encPushWord b)
  | .parStart => .cmd parStartWord
  | .statRd => .cmd statRdWord
  | .aimOn => .frame 0xC5
  | .aimOff => .frame 0xC4
  | .illuminationOn => .frame 0xC1
  | .illuminationOff => .frame 0xC0
  | .capabilitiesRequest => .frame 0xD3

/-- The match column of R72. -/
def Mnemonic.matchBits : Mnemonic → Word
  | .NOP => 0x0000
  | .CK_CLR => 0x1000
  | .CK_ADD => 0x2000
  | .CK_RD => 0x3000
  | .ENC_START => 0x4000
  | .ENC_PUSH => 0x5000
  | .PAR_START => 0x6000
  | .STAT_RD => 0x7000

/-- The HOST's assembler for one line (R86): `match | imm`, for a well-formed line only. -/
def assemble (l : AsmLine) : Option Word :=
  if l.wellFormed then some (commandWord l.mnemonic.matchBits (BitVec.ofNat 8 (l.operand.getD 0))) else none

end Sys2Proof
end

