-- ==== Sys2Proof/Config.lean ====
section
/-! DEFINITION. What the spec leaves to the environment: the vocabulary of the agents' choices (R20 to R22, R86, R157),
the open parameter RSPQ_DEPTH (R8), and the free values, each an opaque constant with no body. -/

namespace Sys2Proof

/-- The parameter RSPQ_DEPTH of R8: a natural number that is at least 1, or unbounded. `atLeastOne k` is the depth
`k + 1`, so that a depth of 0 cannot be written. -/
inductive Depth where
  | unbounded
  | atLeastOne (beyondFirst : Nat)
  deriving DecidableEq, Repr, Inhabited

/-- An item the LINK's receive side offers (R157): `Byte(b)` or `End`. -/
inductive RxItem where
  | byte (b : Byte)
  | endOfStream
  deriving DecidableEq, Repr, Inhabited

/-- The LINK's answer to the byte ENC offers (R132, R133): `TX(ok)` or `TX(err)`. -/
inductive TxAnswer where
  | accept
  | reject
  deriving DecidableEq, Repr, Inhabited

/-- The kinds of response event (R30), as the host action `WAIT ev` of R86 names them. -/
inductive EventKind where
  | ckval
  | status
  | encDone
  | frame
  | err
  deriving DecidableEq, Repr, Inhabited

/-- One action of the HOST's script (R86): issue a command (or a catalog entry, R180), or one of the three host actions
that have no encoding. -/
inductive HostAct where
  | issue (c : Code)
  | pop
  | rst
  | wait (k : EventKind)
  deriving DecidableEq, Repr, Inhabited

/-- Which step is tried next. `host` (issuing a word) and `port` are the step kind `CMD(w)` of R22, the word being tried
when it is presented or again while it is held; `pop`, `enc`, `tx`, `rx` and `rst` are the kinds `POP`, `ENC_INT`,
`TX(ok)` or `TX(err)`, `RX` and `RST`. `plan` and `arrive` are the environment's own moves, which touch nothing of the
ZFC: the HOST adds an action to its script, and an item from the device reaches the LINK, where it waits (R157)
(DESIGN CHOICE, log entry 2). -/
inductive Turn where
  | host
  | port
  | pop
  | rst
  | enc
  | tx (a : TxAnswer)
  | rx
  | plan (a : HostAct)
  | arrive (x : RxItem)
  deriving DecidableEq, Repr, Inhabited

/-- The depth of the response queue of the block at hand (R8, D7, I16): open, so nothing is known of it (DESIGN CHOICE, log
entry 1). -/
opaque Config.rspqDepth : Depth

/-- The choices of HOST, LINK and the interleaving (R21, R22, R218, I19): the step tried at the `k`-th free choice.
Nothing constrains them (DESIGN CHOICE, log entry 2). -/
opaque Config.freeTurn : Nat → Turn

end Sys2Proof
end

