-- ==== Sys2Proof/Machine/State.lean ====
section
/-! DEFINITION. The architectural state of the ZFC (R25 to R31), the observation records (R40, R255), the environment's
plans (R24, R36, R157), and the reasons a step can stop. State is plain data. -/

namespace Sys2Proof.Machine

/-- Reasons the machine stops with a fault. No rule of the spec gives one: each stands for contents of the registers
that R27 or R29 exclude and for which the spec therefore gives no effect (DESIGN CHOICE, log entry 5). All three are safe:
the machine stops where the spec says nothing. -/
inductive Fault where
  /-- Raised by the TX error step when ENC's registers give no number of emitted bytes (R133 defines `emitted` for no
  such phase, length and count). Safe: excluded by R27. -/
  | encRegistersBroken
  /-- Raised by an RX step in BODY with a byte while `PAR.rem` is 0 (R160 needs more than 1, R161 exactly 1). Safe:
  excluded by R29. -/
  | parRemZero
  /-- Raised by the RX step of the last byte when `PAR.buf` does not hold the bytes R161 indexes. Safe: excluded by
  R29. -/
  | parBodyMismatch
  deriving DecidableEq, Repr

/-- Reasons a step has no meaning. -/
inductive Refusal where
  /-- Raised by an arm of `exec` whose instruction has no meaning yet. Safe: the model stops. -/
  | notModelled (mnemonic : String)
  /-- Raised when the HOST's script names, as a catalog entry, a byte that is no opcode of R181 to R185. Safe: no such
  entry exists (R180), so there is nothing to expand. -/
  | notInCatalog (opcode : Byte)
  deriving DecidableEq, Repr

/-- `ENC.phase` (R26). -/
inductive EncPhase where
  | idle | payload | ckHi | ckLo | drain
  deriving DecidableEq, Repr, Inhabited

/-- `PAR.phase` (R28). -/
inductive ParPhase where
  | idle | len | body
  deriving DecidableEq, Repr, Inhabited

/-- The unit of an error event (R211). -/
inductive UnitId where
  | cmd | ck | enc | par
  deriving DecidableEq, Repr, Inhabited

/-- An error and its info fields (R210, R211; the widths of phase, expected and got: DEDUCED, log entry 11); the code and the unit of each kind are `ErrInfo.code` and
`ErrInfo.unit`. -/
inductive ErrInfo where
  | frameTooLarge (n : Byte)
  | malformedFrame (len : Byte)
  | checksumMismatch (expected actual : Word)
  | transportError (unit : UnitId) (expected got : Nat)
  | illegalCommand (cmd : Word)
  | sequenceError (unit : UnitId) (cmd : Word) (phase : BitVec 3)
  deriving DecidableEq, Repr, Inhabited

/-- A response event (R30). `err e` is `ERR{code, unit, info}`. -/
inductive Event where
  | ckval (value : Word)
  | status (word : Word)
  | encDone (len : Byte)
  | frame (len : Byte) (payload : List Byte) (checksum : Word)
  | err (e : ErrInfo)
  deriving DecidableEq, Repr, Inhabited

/-- The CK unit (R25). -/
structure Ck where
  acc : Word
  deriving DecidableEq, Repr, Inhabited

/-- The ENC unit (R26). -/
structure Enc where
  phase : EncPhase
  len : Byte
  cnt : Byte
  acc : Word
  obuf : Option Byte
  deriving DecidableEq, Repr, Inhabited

/-- The PAR unit (R28). -/
structure Par where
  phase : ParPhase
  len : Byte
  rem : BitVec 9
  acc : Word
  buf : List Byte
  deriving DecidableEq, Repr, Inhabited

structure State where
  /-- The checksum accumulator (R25). -/
  ck : Ck
  /-- The frame encoder (R26). -/
  enc : Enc
  /-- The frame parser (R28). -/
  par : Par
  /-- `RSPQ`, the head first (R31). -/
  rspq : List Event
  /-- The parameter RSPQ_DEPTH (R8); no step changes it. -/
  rspqDepth : Depth
  /-- The word presented on the command port and not executed yet (R190, R240). -/
  port : Option Word
  /-- `TXLOG` (R40). -/
  txlog : List Byte
  /-- `RXLOG` (R40). -/
  rxlog : List RxItem
  /-- The events the HOST has popped, in order (R255). -/
  popped : List Event
  /-- The items waiting in the LINK for PAR, the oldest first (R36, R157). -/
  linkRx : List RxItem
  /-- The actions of the HOST's script still to come (R24, R86). -/
  hostq : List HostAct
  /-- The model's own: the steps chosen to come next (R22). When it is empty the choice is free. -/
  turns : List Turn
  /-- The model's own: the index of the next free choice. -/
  tick : Nat
  deriving DecidableEq, Repr

/-- CK after reset (R37). -/
def Ck.reset : Ck := { acc := 0x0000 }

/-- ENC after reset (R37), which is also what it returns to when a frame ends (R131, R133). -/
def Enc.reset : Enc := { phase := .idle, len := 0, cnt := 0, acc := 0x0000, obuf := none }

/-- PAR after reset (R37), which is also what it returns to when a frame ends (R161, R162). -/
def Par.reset : Par := { phase := .idle, len := 0, rem := 0, acc := 0x0000, buf := [] }

/-- The machine just after its first reset (R37, R243). The observation records, the environment's plans and the model's
own fields are empty or zero (DESIGN CHOICE, log entry 3); the depth of the queue is the open constant (log entry 1). -/
def State.reset : State :=
  { ck := Ck.reset, enc := Enc.reset, par := Par.reset, rspq := [], rspqDepth := Config.rspqDepth, port := none,
    txlog := [], rxlog := [], popped := [], linkRx := [], hostq := [], turns := [], tick := 0 }

end Sys2Proof.Machine
end

