-- ==== Sys2Proof/Machine/Flags.lean ====
section
/-! DEFINITION. The STATUS word (R33), the only flags the ZFC has (R35), with the phase codes it shows, and the codes and
units of the error kinds (R210, R211). -/

namespace Sys2Proof.Machine

/-- The code of `ENC.phase` (R26, R33). -/
def EncPhase.code : EncPhase → BitVec 3
  | .idle => 0
  | .payload => 1
  | .ckHi => 2
  | .ckLo => 3
  | .drain => 4

/-- The code of `PAR.phase` (R28, R33). -/
def ParPhase.code : ParPhase → BitVec 3
  | .idle => 0
  | .len => 1
  | .body => 2

/-- ENC_OBUF_FULL of R33. -/
def Enc.obufFull (e : Enc) : Bool := e.obuf.isSome

/-- The STATUS word of R33 and R195: `ENC.phase | (ENC_OBUF_FULL << 3) | (PAR.phase << 4)`; bits [15:6] are 0. -/
def statusWord (e : Enc) (p : Par) : Word :=
  (e.phase.code.zeroExtend 16) ||| ((BitVec.ofBool e.obufFull).zeroExtend 16 <<< 3) ||| (p.phase.code.zeroExtend 16 <<< 4)

/-- The code of an error kind (R210). -/
def ErrInfo.code : ErrInfo → Nat
  | .frameTooLarge _ => 1
  | .malformedFrame _ => 2
  | .checksumMismatch _ _ => 3
  | .transportError _ _ _ => 4
  | .illegalCommand _ => 5
  | .sequenceError _ _ _ => 6

/-- The unit of an error (R211). -/
def ErrInfo.unit : ErrInfo → UnitId
  | .frameTooLarge _ => .enc
  | .malformedFrame _ => .par
  | .checksumMismatch _ _ => .par
  | .transportError u _ _ => u
  | .illegalCommand _ => .cmd
  | .sequenceError u _ _ => u

/-- The number of a unit (R211). -/
def UnitId.code : UnitId → Nat
  | .cmd => 0
  | .ck => 1
  | .enc => 2
  | .par => 3

/-- The kind of an event (R30), for the host action `WAIT ev`. -/
def Event.kind : Event → EventKind
  | .ckval _ => .ckval
  | .status _ => .status
  | .encDone _ => .encDone
  | .frame _ _ _ => .frame
  | .err _ => .err

end Sys2Proof.Machine
end

