-- ==== Sys2Proof/Machine/Ops.lean ====
section
/-! DEFINITION. The shared operations: the updates of State, the response queue (R31), `respond` and `raise` (R11, R214;
the ZFC's whole notion of an exception), `hold` (R193), POP (R196) and RST (R240); and the three pure functions of R12:
checksum (R100), compose (R120) and parse (R150). -/

namespace Sys2Proof.Machine

/-- What one step or one instruction answers. -/
abbrev Result := Host.Outcome State Fault Refusal

/-! ## Updates of State -/

/-- `CK.acc <- v`. -/
def State.setCkAcc (s : State) (v : Word) : State := { s with ck := { acc := v } }

/-- ENC's registers become `e`. -/
def State.setEnc (s : State) (e : Enc) : State := { s with enc := e }

/-- PAR's registers become `p`. -/
def State.setPar (s : State) (p : Par) : State := { s with par := p }

/-- The command port holds `w`, or nothing. -/
def State.setPort (s : State) (w : Option Word) : State := { s with port := w }

/-- The HOST's script becomes `q`. -/
def State.setHostq (s : State) (q : List HostAct) : State := { s with hostq := q }

/-- `respond(ev)` of R11: append `ev` at the tail of RSPQ (R31). -/
def State.respond (s : State) (ev : Event) : State := { s with rspq := s.rspq ++ [ev] }

/-- The effect of `raise E(info)` on the queue (R11, R214): one ERR event at the tail. It saves no state and transfers no
control; a unit that returns to IDLE does so in the rule that raises. -/
def State.raise (s : State) (e : ErrInfo) : State := s.respond (.err e)

/-- PAR takes the LINK's oldest item `x`, leaving `rest`; RXLOG records it (R157). -/
def State.takeItem (s : State) (x : RxItem) (rest : List RxItem) : State :=
  { s with linkRx := rest, rxlog := s.rxlog ++ [x] }

/-- The LINK accepts `b`; TXLOG records it (R132). -/
def State.sendByte (s : State) (b : Byte) : State := { s with txlog := s.txlog ++ [b] }

/-! ## The response queue and holds -/

/-- RSPQ holds RSPQ_DEPTH events (R31). An empty queue is never full, since the depth is at least 1 (R8). -/
def Depth.isFull (d : Depth) : List Event → Bool
  | [] => false
  | _ :: later =>
    match d with
    | .unbounded => false
    | .atLeastOne k => decide (k ≤ later.length)

/-- RSPQ is full (R31, R193). -/
def State.full (s : State) : Bool := Depth.isFull s.rspqDepth s.rspq

/-- A step that is not enabled changes nothing (R193); trying it is a step of the model (DESIGN CHOICE, log entry 10). -/
def notEnabled (s : State) : Result := .next s

/-- A command word that is not enabled stays presented (R190); nothing else changes (R193). -/
def hold (w : Word) (s : State) : Result := .next (s.setPort (some w))

/-- A command word `w` whose effect is to append `ev`: it holds while RSPQ is full (R31, R193). -/
def respondOrHold (w : Word) (ev : Event) (s : State) : Result :=
  if s.full then hold w s else .next (s.respond ev)

/-- A command word `w` that raises `e` (R214): no unit state changes; it holds while RSPQ is full (R193). -/
def raiseOrHold (w : Word) (e : ErrInfo) (s : State) : Result :=
  if s.full then hold w s else .next (s.raise e)

/-- A command word that decodes to no instruction (R192): `raise IllegalCommand`. -/
def raiseIllegal (w : Word) (s : State) : Result := raiseOrHold w (.illegalCommand w) s

/-- POP (R196): the HOST receives the head of RSPQ; not enabled while RSPQ is empty. -/
def popStep (s : State) : Result :=
  match s.rspq with
  | [] => notEnabled s
  | ev :: rest => .next { s with rspq := rest, popped := s.popped ++ [ev] }

/-- RST (R240): every unit at its reset value, RSPQ empty, a presented word discarded; the logs, the LINK and the HOST are
untouched. -/
def State.rst (s : State) : State :=
  { s with ck := Ck.reset, enc := Enc.reset, par := Par.reset, rspq := [], port := none }

/-! ## The checksum (R100, R103) -/

/-- `accumulate` of R103 on the value of an accumulator. -/
def accumulate (acc : Word) (b : Byte) : Word := acc + zext16 b

/-- `sum16(s)` of R100. -/
def sum16 (s : List Byte) : Word := s.foldl accumulate 0x0000

/-- The checksum an accumulator stands for: `0x0000 -16 acc` (R103). -/
def checksumOf (acc : Word) : Word := 0x0000 - acc

/-- `checksum(s)` of R100. -/
def checksum (s : List Byte) : Word := checksumOf (sum16 s)

/-! ## Compose (R120) -/

/-- The bytes of the frame with length byte `l` and payload `p`: `[L] ++ p ++ [hi(c), lo(c)]` (R79, R120). -/
def frameBytes (l : Byte) (p : List Byte) : List Byte :=
  l :: p ++ [hi (checksum (l :: p)), lo (checksum (l :: p))]

/-- `compose(p)` of R120: the size is checked before any output; `FrameTooLarge` carries the payload size. -/
def compose (p : List Byte) : Except Nat (List Byte) :=
  if p.length + 1 > 255 then .error p.length
  else .ok (frameBytes (lengthByte (BitVec.ofNat 8 p.length)) p)

/-! ## Parse (R150) -/

/-- `read(src)` repeated `k` times (R150, step 3): the bytes read, or `End` met before the `k`-th (with what was read), or
nothing when the source offers no further item and the read blocks (R151). -/
inductive BodyRead where
  | whole (body : List Byte) (rest : List RxItem)
  | cut (got : List Byte) (rest : List RxItem)
  | blocked
  deriving DecidableEq, Repr

/-- One more byte in front of what was read. -/
def BodyRead.push (b : Byte) : BodyRead → BodyRead
  | .whole body rest => .whole (b :: body) rest
  | .cut got rest => .cut (b :: got) rest
  | .blocked => .blocked

/-- Read `k` bytes from the source (R150, step 3). -/
def readBody : Nat → List RxItem → BodyRead
  | 0, src => .whole [] src
  | _ + 1, [] => .blocked
  | _ + 1, .endOfStream :: rest => .cut [] rest
  | k + 1, .byte b :: rest => (readBody k rest).push b

/-- Steps 4 and 5 of R150 on a whole body of `l + 1` bytes: the last two bytes are the received checksum, high byte first,
and it is compared with the checksum of the length byte and the rest. -/
def judgeBody (l : Byte) (body : List Byte) : Event :=
  let payload := body.take (l.toNat - 1)
  let received := body.drop (l.toNat - 1)
  let actual := be16 (received.getD 0 0) (received.getD 1 0)
  let expected := checksum (l :: payload)
  if expected = actual then .frame l payload actual else .err (.checksumMismatch expected actual)

/-- `parse(src)` of R150: the frame or the error as an event, with the items left unread; `none` while a read blocks. -/
def parse : List RxItem → Option (Event × List RxItem)
  | [] => none
  | .endOfStream :: rest => some (.err (.transportError .par 1 0), rest)
  | .byte l :: rest =>
    if l = 0 then some (.err (.malformedFrame 0), rest)
    else match readBody ((l.toNat - 1) + 2) rest with
      | .whole body rest' => some (judgeBody l body, rest')
      | .cut got rest' => some (.err (.transportError .par ((l.toNat - 1) + 2) got.length), rest')
      | .blocked => none

/-! ## The scheduler and the code the next step runs -/

/-- The step tried next: the chosen one, or a free choice (R22, R218). -/
def State.nextTurn (s : State) : Turn :=
  match s.turns with
  | [] => Config.freeTurn s.tick
  | t :: _ => t

/-- The state once that choice is made. -/
def State.dropTurn (s : State) : State :=
  match s.turns with
  | [] => { s with tick := s.tick + 1 }
  | _ :: ts => { s with turns := ts }

/-- `s` with the HOST about to issue the code `c` on a free command port. -/
def State.withCode (s : State) (c : Code) : State :=
  { s with port := none, hostq := .issue c :: s.hostq, turns := .host :: s.turns }

/-- `s` with the instruction whose table bits are `w` about to be issued; unchanged for a size no row has. -/
def State.withCodeBits (s : State) (nbits w : Nat) : State :=
  match codeOfBits nbits w with
  | some c => s.withCode c
  | none => s

end Sys2Proof.Machine
end

