-- ==== Sys2Proof/Machine/Catalog.lean ====
section
/-! DEFINITION. What the HOST's assembler expands: the pseudo-instructions of R87 and the five catalog entries (43_catalog.md).
An entry changes nothing of the ZFC: it puts the command words that send its payload at the head of the HOST's script
(R180, R186; that this is one step, and that the words stand together: DESIGN CHOICE, log entry 8). -/

namespace Sys2Proof.Machine

/-- The commands of `SEND p` (R87) for a payload of at most 254 bytes. -/
def sendWords (p : List Byte) : List Word := encStartWord (BitVec.ofNat 8 p.length) :: p.map encPushWord

/-- A command word as an action of the HOST's script. -/
def issueWord (w : Word) : HostAct := .issue (.cmd w)

/-- `SEND p` (R87): defined for payloads of at most 254 bytes. -/
def pseudoSend (p : List Byte) : Option (List HostAct) :=
  if p.length ≤ 254 then some ((sendWords p).map issueWord) else none

/-- `CHECKSUM s` (R87): `CK_CLR`, `CK_ADD` of each byte, `CK_RD`. -/
def pseudoChecksum (s : List Byte) : List HostAct :=
  (0x1000 :: s.map ckAddWord ++ [ckRdWord]).map issueWord

/-- `RECV` (R87). -/
def pseudoRecv : List HostAct := [issueWord parStartWord]

/-- `TRANSACT p` (R87): `SEND p`; `WAIT ENC_DONE`; `RECV`; `WAIT FRAME`. The four parts stand in the script
as a whole, so `RECV` and the second `WAIT` are performed also where the first ended at an ERR (DESIGN CHOICE, log entry 14). -/
def pseudoTransact (p : List Byte) : Option (List HostAct) :=
  (pseudoSend p).map fun send => send ++ [.wait .encDone] ++ pseudoRecv ++ [.wait .frame]

/-- The payload of a catalog entry with the given opcode: the opcode, `0x04`, `0x00` (R180). -/
def catalogPayload (opcode : Byte) : List Byte := [opcode, 0x04, 0x00]

/-- The HOST sends a catalog entry as `SEND` of its payload (R180). -/
def hostSends (p : List Byte) (s : State) : Result :=
  .next (s.setHostq ((sendWords p).map issueWord ++ s.hostq))

/-- `AIM_ON` (R181): `SEND c5 04 00`. -/
def execAimOn (s : State) : Result := hostSends (catalogPayload 0xC5) s

/-- `AIM_OFF` (R182): `SEND c4 04 00`. -/
def execAimOff (s : State) : Result := hostSends (catalogPayload 0xC4) s

/-- `ILLUMINATION_ON` (R183): `SEND c1 04 00`. -/
def execIlluminationOn (s : State) : Result := hostSends (catalogPayload 0xC1) s

/-- `ILLUMINATION_OFF` (R184): `SEND c0 04 00`. -/
def execIlluminationOff (s : State) : Result := hostSends (catalogPayload 0xC0) s

/-- `CAPABILITIES_REQUEST` (R185): `SEND d3 04 00`. -/
def execCapabilitiesRequest (s : State) : Result := hostSends (catalogPayload 0xD3) s

end Sys2Proof.Machine
end

