-- ==== Sys2Proof/Machine/Checksum.lean ====
section
/-! DEFINITION. The commands of the CK unit (40_checksum.md): CK_CLR (R106), CK_ADD (R107), CK_RD (R108). -/

namespace Sys2Proof.Machine

/-- `CK_CLR` (R106): `CK.acc <- 0x0000`; it never holds. -/
def execCkClr (s : State) : Result := .next (s.setCkAcc 0x0000)

/-- `CK_ADD b` (R107): `accumulate(CK, b)`; no carry is recorded and it never holds. -/
def execCkAdd (b : Byte) (s : State) : Result := .next (s.setCkAcc (accumulate s.ck.acc b))

/-- `CK_RD` (R108): respond with the checksum of what was added since the last clear; CK.acc is unchanged; it holds while
RSPQ is full. -/
def execCkRd (s : State) : Result := respondOrHold ckRdWord (.ckval (checksumOf s.ck.acc)) s

end Sys2Proof.Machine
end

