-- ==== Sys2Proof/Machine/Control.lean ====
section
/-! DEFINITION. The control commands (44_control.md): NOP (R194) and STAT_RD (R195). -/

namespace Sys2Proof.Machine

/-- `NOP` (R194): no effect; it never holds. -/
def execNop (s : State) : Result := .next s

/-- `STAT_RD` (R195): respond with the STATUS word of this state; it holds while RSPQ is full. -/
def execStatRd (s : State) : Result := respondOrHold statRdWord (.status (statusWord s.enc s.par)) s

end Sys2Proof.Machine
end

