-- ==== Sys2Proof/Machine/Encoder.lean ====
section
/-! DEFINITION. The frame encoder (41_encoder.md): ENC_START (R126), ENC_PUSH (R128), ENC's internal steps (R129 to R131)
and the TX transfer (R132, R133). -/

namespace Sys2Proof.Machine

/-- `emit(b)` (R127). -/
def Enc.emit (e : Enc) (b : Byte) : Enc := { e with obuf := some b }

/-- ENC's registers after a successful `ENC_START n` (R126). -/
def Enc.start (n : Byte) : Enc :=
  { phase := if n = 0 then .ckHi else .payload
    len := lengthByte n
    cnt := n
    acc := accumulate 0x0000 (lengthByte n)
    obuf := some (lengthByte n) }

/-- ENC's registers after a successful `ENC_PUSH b` (R128). -/
def Enc.push (e : Enc) (b : Byte) : Enc :=
  { phase := if e.cnt - 1 = 0 then .ckHi else e.phase
    len := e.len
    cnt := e.cnt - 1
    acc := accumulate e.acc b
    obuf := some b }

/-- `ENC_START n` (R126), with the checks in the order of R216: phase, size. -/
def execEncStart (n : Byte) (s : State) : Result :=
  if s.enc.phase ≠ .idle then raiseOrHold (encStartWord n) (.sequenceError .enc (encStartWord n) s.enc.phase.code) s
  else if n.toNat + 1 > 255 then raiseOrHold (encStartWord n) (.frameTooLarge n) s
  else .next (s.setEnc (Enc.start n))

/-- `ENC_PUSH b` (R128): the phase check, then the hold while `ENC.obuf` is full, then the byte. -/
def execEncPush (b : Byte) (s : State) : Result :=
  if s.enc.phase ≠ .payload then raiseOrHold (encPushWord b) (.sequenceError .enc (encPushWord b) s.enc.phase.code) s
  else match s.enc.obuf with
    | some _ => hold (encPushWord b) s
    | none => .next (s.setEnc (s.enc.push b))

/-- ENC's registers after the internal step in CK_HI (R129). -/
def Enc.emitHigh (e : Enc) : Enc := { e.emit (hi (checksumOf e.acc)) with phase := .ckLo }

/-- ENC's registers after the internal step in CK_LO (R130). -/
def Enc.emitLow (e : Enc) : Enc := { e.emit (lo (checksumOf e.acc)) with phase := .drain }

/-- ENC's internal step (R129 to R131): enabled in CK_HI, CK_LO and DRAIN while `ENC.obuf` is empty, in DRAIN only while
RSPQ has room. -/
def encStep (s : State) : Result :=
  match s.enc.obuf with
  | some _ => notEnabled s
  | none =>
    match s.enc.phase with
    | .idle => notEnabled s
    | .payload => notEnabled s
    | .ckHi => .next (s.setEnc s.enc.emitHigh)
    | .ckLo => .next (s.setEnc s.enc.emitLow)
    | .drain => if s.full then notEnabled s else .next ((s.setEnc Enc.reset).respond (.encDone s.enc.len))

/-- `emitted(phase, L, cnt)` of R133: the bytes of this frame ENC has emitted. It is nothing where R133 defines no number
(IDLE, or a count not below the length). -/
def emitted : EncPhase → Nat → Nat → Option Nat
  | .idle, _, _ => none
  | .payload, l, cnt => if cnt < l then some (1 + (l - 1 - cnt)) else none
  | .ckHi, l, _ => some l
  | .ckLo, l, _ => some (l + 1)
  | .drain, l, _ => some (l + 2)

/-- The TX transfer: accepted (R132), or an error (R133), which raises TransportError and abandons the frame; the error is
enabled only while RSPQ has room. -/
def txStep (a : TxAnswer) (s : State) : Result :=
  match s.enc.obuf with
  | none => notEnabled s
  | some b =>
    match a with
    | .accept => .next ((s.sendByte b).setEnc { s.enc with obuf := none })
    | .reject =>
      match emitted s.enc.phase s.enc.len.toNat s.enc.cnt.toNat with
      | some (sent + 1) =>
        if s.full then notEnabled s
        else .next ((s.setEnc Enc.reset).raise (.transportError .enc (s.enc.len.toNat + 2) sent))
      | _ => .fault .encRegistersBroken

end Sys2Proof.Machine
end

