-- ==== Sys2Proof/Machine/Parser.lean ====
section
/-! DEFINITION. The frame parser (42_parser.md): PAR_START (R158) and the RX transfer (R157) in LEN (R159) and BODY (R160
to R162). -/

namespace Sys2Proof.Machine

/-- `PAR_START` (R158). -/
def execParStart (s : State) : Result :=
  if s.par.phase ≠ .idle then raiseOrHold parStartWord (.sequenceError .par parStartWord s.par.phase.code) s
  else .next (s.setPar { s.par with phase := .len })

/-- An RX step in LEN (R159): PAR's registers after it, and the event it appends, if any. -/
def Par.takeLen (p : Par) : RxItem → Par × Option Event
  | .endOfStream => ({ p with phase := .idle }, some (.err (.transportError .par 1 0)))
  | .byte l =>
    if l = 0 then ({ p with phase := .idle }, some (.err (.malformedFrame l)))
    else ({ phase := .body, len := l, rem := remainingAfter l, acc := accumulate 0x0000 l, buf := [] }, none)

/-- An RX step in BODY with a byte that is not the last (R160): only a payload byte is accumulated. -/
def Par.takeByte (p : Par) (b : Byte) : Par :=
  { p with
    acc := if p.buf.length + 1 < p.len.toNat then accumulate p.acc b else p.acc
    buf := p.buf ++ [b]
    rem := p.rem - 1 }

/-- The event of the last byte (R161): the recomputed checksum against the received one, which is the two bytes of the
body at `PAR.len - 1` and `PAR.len`. -/
def Par.judge (p : Par) (b : Byte) : Except Fault Event :=
  let body := p.buf ++ [b]
  match p.len.toNat with
  | 0 => .error .parBodyMismatch
  | k + 1 =>
    match body[k]?, body[k + 1]? with
    | some h, some l =>
      if checksumOf p.acc = be16 h l then .ok (.frame p.len (body.take k) (be16 h l))
      else .ok (.err (.checksumMismatch (checksumOf p.acc) (be16 h l)))
    | _, _ => .error .parBodyMismatch

/-- An RX step in BODY (R160 to R162): PAR's registers after it, and the event it appends, if any. -/
def Par.takeBody (p : Par) : RxItem → Except Fault (Par × Option Event)
  | .endOfStream => .ok (Par.reset, some (.err (.transportError .par (p.len.toNat + 1) p.buf.length)))
  | .byte b =>
    if 1 < p.rem.toNat then .ok (p.takeByte b, none)
    else if p.rem.toNat = 1 then
      match p.judge b with
      | .ok ev => .ok (Par.reset, some ev)
      | .error f => .error f
    else .error .parRemZero

/-- PAR takes `x` from the LINK and moves to `p`, appending `ev?`; a step that would append an event is enabled only while
RSPQ has room, and until then the LINK keeps the item (R157). -/
def parTakes (x : RxItem) (rest : List RxItem) (p : Par) (ev? : Option Event) (s : State) : Result :=
  match ev? with
  | none => .next ((s.takeItem x rest).setPar p)
  | some ev => if s.full then notEnabled s else .next (((s.takeItem x rest).setPar p).respond ev)

/-- The RX transfer (R157): enabled only while PAR is armed and the LINK offers an item. -/
def rxStep (s : State) : Result :=
  match s.linkRx with
  | [] => notEnabled s
  | x :: rest =>
    match s.par.phase with
    | .idle => notEnabled s
    | .len => parTakes x rest (s.par.takeLen x).1 (s.par.takeLen x).2 s
    | .body =>
      match s.par.takeBody x with
      | .ok m => parTakes x rest m.1 m.2 s
      | .error f => .fault f

end Sys2Proof.Machine
end

