-- ==== Sys2Proof/Machine/Dispatch.lean ====
section
/-! DEFINITION. The dispatch of R191, with the catalog entries of R181 to R185: one arm per constructor of Instr. -/

namespace Sys2Proof.Machine

def exec (i : Instr) (s : State) : Host.Outcome State Fault Refusal :=
  match i with
  | .nop => Sys2Proof.Machine.execNop s
  | .ckClr => Sys2Proof.Machine.execCkClr s
  | .ckAdd b => Sys2Proof.Machine.execCkAdd b s
  | .ckRd => Sys2Proof.Machine.execCkRd s
  | .encStart n => Sys2Proof.Machine.execEncStart n s
  | .encPush b => Sys2Proof.Machine.execEncPush b s
  | .parStart => Sys2Proof.Machine.execParStart s
  | .statRd => Sys2Proof.Machine.execStatRd s
  | .aimOn => Sys2Proof.Machine.execAimOn s
  | .aimOff => Sys2Proof.Machine.execAimOff s
  | .illuminationOn => Sys2Proof.Machine.execIlluminationOn s
  | .illuminationOff => Sys2Proof.Machine.execIlluminationOff s
  | .capabilitiesRequest => Sys2Proof.Machine.execCapabilitiesRequest s

end Sys2Proof.Machine
end

