-- ==== Sys2Proof/Machine/Agents.lean ====
section
/-! DEFINITION. The steps of R22: the command step (R190), the actions of the HOST's script (R86, R196, R240), and one
function that fires a chosen step. -/

namespace Sys2Proof.Machine

/-- Execute a code: the instruction it decodes to, or, where it decodes to none, `IllegalCommand` for a command word
(R192) and a refusal for a byte that names no catalog entry. -/
def runCode (c : Code) (s : State) : Result :=
  match decode c with
  | .ok i => exec i s
  | .error _ =>
    match c with
    | .cmd w => raiseIllegal w s
    | .frame b => .refused (.notInCatalog b)

/-- The ZFC executes the word its command port holds (R190). A word that is still not enabled is held again. -/
def portStep (s : State) : Result :=
  match s.port with
  | none => notEnabled s
  | some w => runCode (.cmd w) (s.setPort none)

/-- `WAIT k` meets the event `ev` (R86): the wait ends at an event of kind `k`, and at an ERR event as well (R87).
Either way the script goes on (`hostStep`; DESIGN CHOICE, log entry 14). -/
def waitEnds (k : EventKind) (ev : Event) : Bool := ev.kind == k || ev.kind == .err

/-- The HOST takes the next action of its script. It issues no code while a word is presented (R190, R61); a POP or a WAIT
waits while RSPQ is empty (R196); a WAIT pops one event a step until it ends (R86; DESIGN CHOICE, log entry 9). After a WAIT
that ended at an ERR the script goes on as after its own event: R87 does not say what becomes of the actions after it, and R212
leaves aborting to the HOST (DESIGN CHOICE, log entry 14; a HOST that aborts plans what follows later, by `Turn.plan`). -/
def hostStep (s : State) : Result :=
  match s.hostq with
  | [] => notEnabled s
  | .issue c :: later =>
    match s.port with
    | some _ => notEnabled s
    | none => runCode c (s.setHostq later)
  | .pop :: later =>
    match s.rspq with
    | [] => notEnabled s
    | _ :: _ => popStep (s.setHostq later)
  | .rst :: later => .next ((s.setHostq later).rst)
  | .wait k :: later =>
    match s.rspq with
    | [] => notEnabled s
    | ev :: _ => if waitEnds k ev then popStep (s.setHostq later) else popStep s

/-- Fire one step (R22), or one of the environment's own moves. A step that is not enabled changes nothing (R193). -/
def fire (t : Turn) (s : State) : Result :=
  match t with
  | .host => hostStep s
  | .port => portStep s
  | .pop => popStep s
  | .rst => .next s.rst
  | .enc => encStep s
  | .tx a => txStep a s
  | .rx => rxStep s
  | .plan a => .next (s.setHostq (s.hostq ++ [a]))
  | .arrive x => .next { s with linkRx := s.linkRx ++ [x] }

end Sys2Proof.Machine
end

