-- ==== Sys2Proof/Machine/Step.lean ====
section
/-! DEFINITION. One step of the machine: the step chosen next, or a free choice, is fired (R22, R218). -/

namespace Sys2Proof.Machine

/-- One step. -/
def step (s : State) : Host.Outcome State Fault Refusal := fire s.nextTurn s.dropTurn

/-- `s` with the instruction whose table bits are `w` where the next step takes its code: the HOST issues it next, on a
free command port. -/
def State.withFetchWord (s : State) (nbits w : Nat) : State := s.withCodeBits nbits w

end Sys2Proof.Machine
end

