-- ==== Sys2Proof/Safety.lean ====
section
/-! DEFINITION. What a state of the ZFC keeps (R27, R29, R31), how the registers stand to the bytes on the wire (R134,
R163), which events can occur (R30, R210, R211), when a step is enabled (R193), and when a run is over (R255) or fair
(R253). The claims are stated in these terms. -/

namespace Sys2Proof.Machine

/-! ## Invariants of the units -/

/-- The first three items of R27, and the count below the length that R126 and R128 give. -/
def Enc.Inv (e : Enc) : Prop :=
  (e.phase = .idle → e.len = 0 ∧ e.cnt = 0 ∧ e.acc = 0x0000 ∧ e.obuf = none) ∧
  (0 < e.cnt.toNat ↔ e.phase = .payload) ∧
  (e.phase ≠ .idle → 1 ≤ e.len.toNat) ∧
  (e.phase = .payload → e.cnt.toNat < e.len.toNat)

/-- The bytes of the frame in progress that ENC has emitted are the end of what the LINK accepted and the byte it is still
offered; they are the frame of the payload pushed so far, and ENC.acc is the sum of its bytes before the checksum (the
last item of R27, R134). -/
def Enc.OnWire (e : Enc) (txlog : List Byte) : Prop :=
  match e.phase with
  | .idle => True
  | .payload => ∃ before p, txlog ++ e.obuf.toList = before ++ e.len :: p ∧
      p.length + 1 + e.cnt.toNat = e.len.toNat ∧ e.acc = sum16 (e.len :: p)
  | .ckHi => ∃ before p, txlog ++ e.obuf.toList = before ++ e.len :: p ∧
      p.length + 1 = e.len.toNat ∧ e.acc = sum16 (e.len :: p)
  | .ckLo => ∃ before p, txlog ++ e.obuf.toList = before ++ e.len :: p ++ [hi (checksum (e.len :: p))] ∧
      p.length + 1 = e.len.toNat ∧ e.acc = sum16 (e.len :: p)
  | .drain => ∃ before p, txlog ++ e.obuf.toList = before ++ frameBytes e.len p ∧
      p.length + 1 = e.len.toNat ∧ e.acc = sum16 (e.len :: p)

/-- R29. -/
def Par.Inv (p : Par) : Prop :=
  (p.phase ≠ .body → p.len = 0 ∧ p.rem = 0 ∧ p.acc = 0x0000 ∧ p.buf = []) ∧
  (p.phase = .body → 1 ≤ p.len.toNat ∧ 1 ≤ p.rem.toNat ∧ p.buf.length + p.rem.toNat = p.len.toNat + 1 ∧
    p.acc = sum16 (p.len :: p.buf.take (p.len.toNat - 1)))

/-- In BODY the last items PAR took are the length byte and the bytes of `PAR.buf` (R157, R163). -/
def Par.OnWire (p : Par) (rxlog : List RxItem) : Prop :=
  p.phase = .body → ∃ before, rxlog = before ++ (p.len :: p.buf).map RxItem.byte

/-! ## Events -/

/-- An error as R210 and R211 allow it. -/
def ErrInfo.Inv : ErrInfo → Prop
  | .frameTooLarge n => n = 255
  | .malformedFrame l => l = 0
  | .checksumMismatch expected actual => expected ≠ actual
  | .transportError u expected got => (u = .enc ∨ u = .par) ∧ got < expected ∧ expected ≤ 257
  | .illegalCommand w => wordLegal w = false
  | .sequenceError u w phase =>
    (u = .enc ∧ (∃ n, w = encStartWord n) ∧ phase.toNat ∈ [1, 2, 3, 4]) ∨
    (u = .enc ∧ (∃ b, w = encPushWord b) ∧ phase.toNat ∈ [0, 2, 3, 4]) ∨
    (u = .par ∧ w = parStartWord ∧ phase.toNat ∈ [1, 2])

/-- An event as R30, R33, R131 and R161 allow it. -/
def Event.Inv : Event → Prop
  | .ckval _ => True
  | .status w => w.toNat < 64 ∧ w.toNat % 8 ≤ 4 ∧ w.toNat / 16 ≤ 2
  | .encDone l => 1 ≤ l.toNat
  | .frame l p c => p.length + 1 = l.toNat ∧ c = checksum (l :: p)
  | .err e => e.Inv

/-- RSPQ holds at most RSPQ_DEPTH events (R31). -/
def Depth.Holds (d : Depth) (q : List Event) : Prop :=
  match d with
  | .unbounded => True
  | .atLeastOne k => q.length ≤ k + 1

/-- The invariant of the machine. -/
structure State.Inv (s : State) : Prop where
  enc : s.enc.Inv
  encWire : s.enc.OnWire s.txlog
  par : s.par.Inv
  parWire : s.par.OnWire s.rxlog
  events : ∀ ev ∈ s.popped ++ s.rspq, ev.Inv
  depth : Depth.Holds s.rspqDepth s.rspq

/-! ## Which steps are enabled (R193) -/

/-- The holds of R193 for a command: `ENC_PUSH` behind a full `ENC.obuf`, and any command that would append an event while
RSPQ is full. The catalog entries are no commands of the ZFC and never hold. -/
def State.holds (s : State) : Instr → Bool
  | .nop | .ckClr | .ckAdd _ => false
  | .ckRd | .statRd => s.full
  | .encStart n => (s.enc.phase != .idle || n == 255) && s.full
  | .encPush _ => (s.enc.phase == .payload && s.enc.obufFull) || (s.enc.phase != .payload && s.full)
  | .parStart => s.par.phase != .idle && s.full
  | .aimOn | .aimOff | .illuminationOn | .illuminationOff | .capabilitiesRequest => false

/-- The step of the word `w` is enabled (R190): the word's rule does not hold; an illegal word needs a free place in
RSPQ (R192). -/
def State.wordEnabled (s : State) (w : Word) : Bool :=
  match decodeWord w with
  | .ok i => !s.holds i
  | .error _ => !s.full

/-- ENC's internal step is enabled (R129 to R131). -/
def State.encEnabled (s : State) : Bool :=
  !s.enc.obufFull &&
    match s.enc.phase with
    | .idle | .payload => false
    | .ckHi | .ckLo => true
    | .drain => !s.full

/-- Taking `x` makes PAR append an event (R159, R161, R162). -/
def Par.ends (p : Par) (x : RxItem) : Bool :=
  match p.phase, x with
  | .idle, _ => false
  | .len, .byte l => l == 0
  | .body, .byte _ => p.rem.toNat ≤ 1
  | _, .endOfStream => true

/-- The RX step of the item `x` is enabled (R157). -/
def State.rxEnabled (s : State) (x : RxItem) : Bool :=
  s.par.phase != .idle && !(s.par.ends x && s.full)

/-- The LINK's answer `a` is enabled (R132, R133). -/
def State.txEnabled (s : State) (a : TxAnswer) : Bool := s.enc.obufFull && (a == .accept || !s.full)

/-- A step the ZFC or the LINK can take, other than RST, is enabled (R255). The HOST's own steps are not counted here: a HOST
can present a word in every state, and R255 admits a final state in which RSPQ is not empty, so an enabled POP keeps a run
going only if the HOST means to perform it (`State.hostDone`; DESIGN CHOICE, log entry 13). -/
def State.busy (s : State) : Bool :=
  s.port.any s.wordEnabled || s.encEnabled || s.txEnabled .accept || s.linkRx.head?.any s.rxEnabled

/-- The action is a command or a pop (R255); a WAIT pops (R86). -/
def performs : HostAct → Bool
  | .issue _ | .pop | .wait _ => true
  | .rst => false

/-- By the chosen turn the HOST pops, or adds a command or a pop to its script. -/
def turnPerforms : Turn → Bool
  | .pop => true
  | .plan a => performs a
  | .host | .port | .rst | .enc | .tx _ | .rx | .arrive _ => false

/-- The HOST has no further command or pop to perform (R255): none in its script, and none in the turns chosen to come (a turn
not yet chosen is no plan of the HOST; DESIGN CHOICE, log entry 13). -/
def State.hostDone (s : State) : Bool := s.hostq.all (!performs ·) && s.turns.all (!turnPerforms ·)

/-- The run is over (R255): no step other than RST is enabled, and the HOST has no further command or pop to perform. -/
def State.runOver (s : State) : Bool := !s.busy && s.hostDone

/-- A run that is over is completed unless it stopped while waiting: PAR armed, ENC not IDLE or RSPQ not empty (R255). -/
def State.completed (s : State) : Bool :=
  s.runOver && s.enc.phase == .idle && s.par.phase == .idle && s.rspq.isEmpty

/-- What is observed of a run (R255): the final state of the ZFC's units, TXLOG, RXLOG and the events the host popped. -/
structure Observation where
  ck : Ck
  enc : Enc
  par : Par
  rspq : List Event
  txlog : List Byte
  rxlog : List RxItem
  popped : List Event
  deriving DecidableEq, Repr

/-- The observation of a run that ends in `s` (R255). -/
def State.observe (s : State) : Observation :=
  { ck := s.ck, enc := s.enc, par := s.par, rspq := s.rspq, txlog := s.txlog, rxlog := s.rxlog, popped := s.popped }

/-! ## Runs, and fairness (R253) -/

/-- `n` steps of the machine, stopping at the first fault or refusal. -/
def run : Nat → State → Result
  | 0, s => .next s
  | n + 1, s =>
    match step s with
    | .next s' => run n s'
    | .fault f => .fault f
    | .refused r => .refused r

/-- The HOST issues `n` words, and the LINK accepts one byte after each. -/
def issueTurns : Nat → List Turn
  | 0 => []
  | n + 1 => .host :: .tx .accept :: issueTurns n

/-- The steps of a whole frame with a payload of `n` bytes under an accepting LINK (R134): the `n + 1` words of SEND, then
ENC's CK_HI, CK_LO and DRAIN. -/
def sendTurns (n : Nat) : List Turn := issueTurns (n + 1) ++ [.enc, .tx .accept, .enc, .tx .accept, .enc]

/-- One move of an interleaving in which commands to any unit and steps of ENC, TX, RX and POP may come in any order
(R109, R63). -/
inductive Move where
  | command (i : Instr)
  | pop
  | enc
  | tx (a : TxAnswer)
  | rx
  deriving DecidableEq, Repr

/-- The effect of one move. -/
def Move.apply (m : Move) (s : State) : Result :=
  match m with
  | .command i => exec i s
  | .pop => fire .pop s
  | .enc => fire .enc s
  | .tx a => fire (.tx a) s
  | .rx => fire .rx s

/-- The effect of several moves in order. -/
def applyMoves : List Move → State → Result
  | [], s => .next s
  | m :: ms, s =>
    match m.apply s with
    | .next s' => applyMoves ms s'
    | .fault f => .fault f
    | .refused r => .refused r

/-- The bytes `CK_ADD` adds in a list of moves. -/
def addedBytes : List Move → List Byte
  | [] => []
  | .command (.ckAdd b) :: ms => b :: addedBytes ms
  | _ :: ms => addedBytes ms

/-- The commands to ENC in a list of moves, in order. -/
def encCommands : List Move → List Instr
  | [] => []
  | .command (.encStart n) :: ms => .encStart n :: encCommands ms
  | .command (.encPush b) :: ms => .encPush b :: encCommands ms
  | _ :: ms => encCommands ms

/-- The event reports on ENC: ENC_DONE, or an error of unit ENC (R131, R211). -/
def Event.ofEnc : Event → Bool
  | .encDone _ => true
  | .err e => e.unit == .enc
  | .ckval _ | .status _ | .frame _ _ _ => false

/-- From `s` to `t` RSPQ gained nothing, or one event of an allowed kind at its tail (R31, R198). -/
def State.appendsOnly (s t : State) (allowed : Event → Prop) : Prop :=
  t.rspq = s.rspq ∨ ∃ ev, t.rspq = s.rspq ++ [ev] ∧ allowed ev

/-- An infinite run of the machine. -/
def IsRun (r : Nat → State) : Prop := ∀ n, step (r n) = .next (r (n + 1))

/-- Weak fairness of ENC's internal step, the only progress the ZFC guarantees (R253): one that stays enabled is eventually
taken. It is a premise for claims about infinite runs; the LINK and the HOST are not assumed fair
(DESIGN CHOICE, log entry 7). -/
def EncFair (r : Nat → State) : Prop :=
  ∀ n, (∀ m, n ≤ m → (r m).encEnabled = true) → ∃ m, n ≤ m ∧ (r m).nextTurn = .enc

end Sys2Proof.Machine
end

