-- ==== Sys2Proof/Certificates/Slice0/Obligations.lean ====
section
/-! DEFINITION. The statements for the provers, each with the rules of spec/ it formalises. -/

open Sys2Proof Sys2Proof.Machine

/-! ## Reset (70_reset_and_hazards.md) -/

/-- R37: the value of every piece of ZFC state after reset, and the STATUS word those values give. -/
def Obligations.ResetLeavesTheValuesOfR37 : Prop :=
  State.reset.ck.acc = 0x0000 ∧
  State.reset.enc.phase = .idle ∧ State.reset.enc.len = 0 ∧ State.reset.enc.cnt = 0 ∧
  State.reset.enc.acc = 0x0000 ∧ State.reset.enc.obuf = none ∧
  State.reset.par.phase = .idle ∧ State.reset.par.len = 0 ∧ State.reset.par.rem = 0 ∧
  State.reset.par.acc = 0x0000 ∧ State.reset.par.buf = [] ∧
  State.reset.rspq = [] ∧ statusWord State.reset.enc State.reset.par = 0x0000

/-- R240: RST is always enabled and appends no event; every unit returns to its reset values, RSPQ is emptied and a
presented word is discarded; TXLOG, RXLOG and the LINK keep what they hold, and so do the HOST's script, what it has
received and the parameter RSPQ_DEPTH. -/
def Obligations.RstResetsUnitsAndKeepsLogs : Prop :=
  ∀ s : State, ∃ t, fire .rst s = .next t ∧ t.ck.acc = 0x0000 ∧
    t.enc.phase = .idle ∧ t.enc.len = 0 ∧ t.enc.cnt = 0 ∧ t.enc.acc = 0x0000 ∧ t.enc.obuf = none ∧
    t.par.phase = .idle ∧ t.par.len = 0 ∧ t.par.rem = 0 ∧ t.par.acc = 0x0000 ∧ t.par.buf = [] ∧
    t.rspq = [] ∧ t.port = none ∧
    t.txlog = s.txlog ∧ t.rxlog = s.rxlog ∧ t.linkRx = s.linkRx ∧ t.popped = s.popped ∧ t.hostq = s.hostq ∧
    t.rspqDepth = s.rspqDepth ∧ t.turns = s.turns ∧ t.tick = s.tick

/-! ## Encodings (30_encoding.md) -/

/-- R74, R75, R76: a command word decodes if and only if OP is below 8, RSV is 0, and IMM8 is 0 where OP is one of the
five operations without an operand. -/
def Obligations.WordDecodesExactlyWhenLegal : Prop :=
  ∀ w : Word, (∃ i, decodeWord w = .ok i) ↔
    ¬ (8 ≤ (opField w).toNat ∨ rsvField w ≠ 0 ∨ (opField w ∈ [0x0#4, 0x1#4, 0x3#4, 0x6#4, 0x7#4] ∧ immField w ≠ 0))

/-- R72, R191: which instruction a legal word is, by OP, with IMM8 as its operand. -/
def Obligations.OpSelectsTheInstruction : Prop :=
  ∀ (w : Word) (i : Instr), decodeWord w = .ok i →
    (opField w = 0x0 ∧ i = .nop) ∨ (opField w = 0x1 ∧ i = .ckClr) ∨ (opField w = 0x2 ∧ i = .ckAdd (immField w)) ∨
    (opField w = 0x3 ∧ i = .ckRd) ∨ (opField w = 0x4 ∧ i = .encStart (immField w)) ∨
    (opField w = 0x5 ∧ i = .encPush (immField w)) ∨ (opField w = 0x6 ∧ i = .parStart) ∨ (opField w = 0x7 ∧ i = .statRd)

/-- Decode and encode agree on every instruction, at every operand: a command word (R72) or a catalog opcode (R89). -/
def Obligations.DecodeOfEncodeIsTheInstruction : Prop :=
  ∀ i : Instr, decode (encode i) = .ok i

/-- Each code has one meaning: what decodes to an instruction is that instruction's encoding (R72, R77). -/
def Obligations.EncodeOfDecodeIsTheCode : Prop :=
  ∀ (c : Code) (i : Instr), decode c = .ok i → encode i = c

/-- R77: exactly 773 command words are legal. -/
def Obligations.Exactly773WordsAreLegal : Prop :=
  ((List.range 65536).filter fun w => wordLegal (BitVec.ofNat 16 w)).length = 773

/-- Sanity: words written out bit by bit from R71, R72 and R181 to R185 decode to the instructions they stand for. -/
def Obligations.SampleWordsDecode : Prop :=
  decodeTableWord 16 0b0000000000000000 = some .nop ∧
  decodeTableWord 16 0b0001000000000000 = some .ckClr ∧
  decodeTableWord 16 0b0010000011000101 = some (.ckAdd 0xC5) ∧
  decodeTableWord 16 0b0100000000000011 = some (.encStart 3) ∧
  decodeTableWord 16 0b0101000000000100 = some (.encPush 0x04) ∧
  decodeTableWord 16 0b0110000000000000 = some .parStart ∧
  decodeTableWord 16 0b0111000000000000 = some .statRd ∧
  decodeTableWord 8 0b11000101 = some .aimOn ∧
  decodeTableWord 16 0b1000000000000000 = none

/-- R86: the assembler's word for a well-formed line decodes, and to the line's own operation with the line's operand. -/
def Obligations.AssembledLineDecodesToItself : Prop :=
  ∀ l : AsmLine, l.wellFormed = true →
    ∃ w i, assemble l = some w ∧ decodeWord w = .ok i ∧
      (match l.mnemonic, i with
        | .NOP, .nop => True
        | .CK_CLR, .ckClr => True
        | .CK_ADD, .ckAdd b => l.operand = some b.toNat
        | .CK_RD, .ckRd => True
        | .ENC_START, .encStart n => l.operand = some n.toNat
        | .ENC_PUSH, .encPush b => l.operand = some b.toNat
        | .PAR_START, .parStart => True
        | .STAT_RD, .statRd => True
        | _, _ => False)

/-! ## Command execution (44_control.md) -/

/-- A step runs the decoded instruction: when the HOST's next action issues a code, on a free command port, that decodes to
`i`, the step is exec of `i` once the action is taken from the script; when the port holds a word that decodes to `i`, the
step of the port is exec of `i` once the word is taken from the port. -/
def Obligations.StepRunsTheDecodedInstruction : Prop :=
  ∀ (s : State) (i : Instr) (ts : List Turn),
    (∀ c later, s.turns = .host :: ts → s.port = none → s.hostq = .issue c :: later → decode c = .ok i →
      step s = exec i { s with turns := ts, hostq := later }) ∧
    (∀ w, s.turns = .port :: ts → s.port = some w → decodeWord w = .ok i →
      step s = exec i { s with turns := ts, port := none })

/-- R192: a word with a reserved OP, RSV not 0, or IMM8 not 0 on an operation without an operand appends
`ERR{code=5, unit=CMD, info={cmd=w}}` and changes nothing else; it holds while RSPQ is full. -/
def Obligations.IllegalWordRaisesIllegalCommand : Prop :=
  ∀ (s : State) (w : Word),
    8 ≤ (opField w).toNat ∨ rsvField w ≠ 0 ∨
      (opField w ∈ [0x0#4, 0x1#4, 0x3#4, 0x6#4, 0x7#4] ∧ immField w ≠ 0) →
    runCode (.cmd w) s =
        (if s.full then .next { s with port := some w }
         else .next { s with rspq := s.rspq ++ [.err (.illegalCommand w)] }) ∧
      (ErrInfo.illegalCommand w).code = 5 ∧ (ErrInfo.illegalCommand w).unit = .cmd

/-- R194: `NOP` is 0x0000 exactly, leaves every state unchanged and never holds; every other word with OP = 0 (0x00ii and
0x0r00 with ii or r not 0 among them) executes as an illegal word. -/
def Obligations.NopLeavesTheStateUnchanged : Prop :=
  decodeWord 0x0000 = .ok .nop ∧
  (∀ (w : Word) (s : State), opField w = 0x0 → w ≠ 0x0000 → runCode (.cmd w) s = raiseIllegal w s) ∧
  (∀ s : State, exec .nop s = .next s)

/-- R195 with the layout of R33: `STAT_RD` is 0x7000 exactly, every other word with its OP executes as an illegal word
(R192); it appends `STATUS` with the word of this state, changing nothing else; it holds while RSPQ is full. Bits [2:0] of
the word are ENC.phase, bit [3] is 1 exactly when ENC.obuf holds a byte, bits [5:4] are PAR.phase, bits [15:6] are 0. -/
def Obligations.StatRdReportsTheStatusWord : Prop :=
  decodeWord 0x7000 = .ok .statRd ∧
  (∀ (w : Word) (s : State), opField w = 0x7 → w ≠ 0x7000 → runCode (.cmd w) s = raiseIllegal w s) ∧
  (∀ s : State, exec .statRd s =
    if s.full then .next { s with port := some 0x7000 }
    else .next { s with rspq := s.rspq ++ [.status (statusWord s.enc s.par)] }) ∧
  (∀ (e : Enc) (p : Par),
    (statusWord e p).extractLsb' 0 3 =
      (match e.phase with | .idle => 0 | .payload => 1 | .ckHi => 2 | .ckLo => 3 | .drain => 4) ∧
    ((statusWord e p).getLsbD 3 = true ↔ ∃ b, e.obuf = some b) ∧
    (statusWord e p).extractLsb' 4 2 = (match p.phase with | .idle => 0 | .len => 1 | .body => 2) ∧
    (statusWord e p).extractLsb' 6 10 = 0)

/-- R196: POP removes the head event of RSPQ and hands it to the HOST; no unit state changes; it is not enabled while RSPQ
is empty, and then changes nothing. -/
def Obligations.PopHandsOverTheHeadEvent : Prop :=
  ∀ s : State,
    (∀ ev rest, s.rspq = ev :: rest →
      fire .pop s = .next { s with rspq := rest, popped := s.popped ++ [ev] }) ∧
    (s.rspq = [] → fire .pop s = .next s)

/-- R86, R87, the host actions as the model runs them (log entry 9): `POP` takes the head event, and waits while RSPQ is
empty; `RST` resets; `WAIT k` pops one event, ends when that event is of kind k or an ERR, goes on otherwise, and waits while
RSPQ is empty. That the script goes on after a WAIT that ended at an ERR is the model's choice (log entry 14). -/
def Obligations.HostActionsPopResetAndWait : Prop :=
  ∀ (s : State) (k : EventKind) (later : List HostAct),
    (s.hostq = .rst :: later → fire .host s = fire .rst { s with hostq := later }) ∧
    (s.hostq = .pop :: later →
      (s.rspq = [] → fire .host s = .next s) ∧
      (∀ ev rest, s.rspq = ev :: rest →
        fire .host s = .next { s with rspq := rest, popped := s.popped ++ [ev], hostq := later })) ∧
    (s.hostq = .wait k :: later →
      (s.rspq = [] → fire .host s = .next s) ∧
      (∀ ev rest, s.rspq = ev :: rest → ev.kind = k ∨ (∃ e, ev = .err e) →
        fire .host s = .next { s with rspq := rest, popped := s.popped ++ [ev], hostq := later }) ∧
      (∀ ev rest, s.rspq = ev :: rest → ev.kind ≠ k → (∀ e, ev ≠ .err e) →
        fire .host s = .next { s with rspq := rest, popped := s.popped ++ [ev] }))

/-- R193, R216 for commands: a command holds exactly in the cases of R193's table, and then it only stays presented; in
every other case it is executed in this step and the command port is as it was. -/
def Obligations.CommandsHoldExactlyAsR193Says : Prop :=
  ∀ (i : Instr) (s : State),
    (s.holds i = true → ∃ w, encode i = .cmd w ∧ exec i s = .next { s with port := some w }) ∧
    (s.holds i = false → ∃ t, exec i s = .next t ∧ t.port = s.port)

/-- R193 for the other steps: a step that is not enabled changes nothing, and one that is enabled is taken: ENC's internal
step, the LINK's answer to the byte in ENC.obuf, an RX transfer, and the step of a held word. PAR's registers are those R29
allows, and for a TX error ENC's are those R27 allows. -/
def Obligations.StepsWaitExactlyWhenNotEnabled : Prop :=
  ∀ s : State, s.par.Inv →
    (s.encEnabled = false → fire .enc s = .next s) ∧
    (s.encEnabled = true → ∃ t, fire .enc s = .next t ∧ t.enc ≠ s.enc) ∧
    (∀ a, s.enc.obuf = none → fire (.tx a) s = .next s) ∧
    (∀ a, a = .accept ∨ s.enc.Inv → s.txEnabled a = false → fire (.tx a) s = .next s) ∧
    (∀ a, a = .accept ∨ s.enc.Inv → s.txEnabled a = true →
      ∃ t, fire (.tx a) s = .next t ∧ s.enc.obuf ≠ none ∧ t.enc.obuf = none) ∧
    (∀ x rest, s.linkRx = x :: rest → s.rxEnabled x = false → fire .rx s = .next s) ∧
    (∀ x rest, s.linkRx = x :: rest → s.rxEnabled x = true → ∃ t, fire .rx s = .next t ∧ t.linkRx = rest) ∧
    (∀ w, s.port = some w → s.wordEnabled w = false → fire .port s = .next s) ∧
    (∀ w, s.port = some w → s.wordEnabled w = true → ∃ t, fire .port s = .next t ∧ t.port = none)

/-- The frame of the commands: whatever an instruction does, the logs, the popped events, the LINK's items, the parameter
and the schedule are unchanged; only CK_CLR and CK_ADD write CK, only ENC_START and ENC_PUSH write ENC, only PAR_START
writes PAR, and only a catalog entry writes the HOST's script; RSPQ at most gains events at its tail. -/
def Obligations.CommandsChangeOnlyTheirOwnUnit : Prop :=
  ∀ (i : Instr) (s t : State), exec i s = .next t →
    t.txlog = s.txlog ∧ t.rxlog = s.rxlog ∧ t.popped = s.popped ∧ t.linkRx = s.linkRx ∧ t.rspqDepth = s.rspqDepth ∧
    t.turns = s.turns ∧ t.tick = s.tick ∧ (∃ new, t.rspq = s.rspq ++ new) ∧
    ((i = .ckClr ∨ ∃ b, i = .ckAdd b) ∨ t.ck = s.ck) ∧
    (((∃ n, i = .encStart n) ∨ ∃ b, i = .encPush b) ∨ t.enc = s.enc) ∧
    (i = .parStart ∨ t.par = s.par) ∧
    ((i = .aimOn ∨ i = .aimOff ∨ i = .illuminationOn ∨ i = .illuminationOff ∨ i = .capabilitiesRequest) ∨
      t.hostq = s.hostq)

/-- R214, R210: a command that raises an error appends it and changes nothing else, and the only errors a command raises
are IllegalCommand (for a word that does not decode), SequenceError and FrameTooLarge. -/
def Obligations.CommandErrorsChangeNoUnit : Prop :=
  ∀ (c : Code) (s t : State) (e : ErrInfo), runCode c s = .next t → t.rspq = s.rspq ++ [.err e] →
    t = { s with rspq := s.rspq ++ [.err e] } ∧ (e.code = 1 ∨ e.code = 5 ∨ e.code = 6)

/-! ## The checksum unit (40_checksum.md) -/

/-- R106: `CK_CLR` is 0x1000 exactly, every other word with its OP executes as an illegal word (R192); it clears CK.acc,
changes nothing else, responds nothing and never holds. -/
def Obligations.CkClrClearsTheAccumulator : Prop :=
  decodeWord 0x1000 = .ok .ckClr ∧
  (∀ (w : Word) (s : State), opField w = 0x1 → w ≠ 0x1000 → runCode (.cmd w) s = raiseIllegal w s) ∧
  (∀ s : State, exec .ckClr s = .next { s with ck := { acc := 0x0000 } })

/-- R107: `CK_ADD b` is `0x2000 | b`; it adds the zero-extended byte modulo 65536, changes nothing else, responds nothing
and never holds; with RSV not 0 the word executes as an illegal word (R192). -/
def Obligations.CkAddAddsTheByte : Prop :=
  (∀ b : Byte, decodeWord (0x2000 ||| zext16 b) = .ok (.ckAdd b)) ∧
  (∀ (w : Word) (s : State), opField w = 0x2 → rsvField w ≠ 0 → runCode (.cmd w) s = raiseIllegal w s) ∧
  (∀ (b : Byte) (s : State), ∃ t, exec (.ckAdd b) s = .next t ∧
    t.ck.acc.toNat = (s.ck.acc.toNat + b.toNat) % 65536 ∧ { t with ck := s.ck } = s)

/-- R108: `CK_RD` is 0x3000 exactly, every other word with its OP executes as an illegal word (R192); it appends `CKVAL` of
the negated sum, leaves CK.acc and all else unchanged, and holds while RSPQ is full; two of them with nothing between report
the same value. -/
def Obligations.CkRdReportsTheNegatedSum : Prop :=
  decodeWord 0x3000 = .ok .ckRd ∧
  (∀ (w : Word) (s : State), opField w = 0x3 → w ≠ 0x3000 → runCode (.cmd w) s = raiseIllegal w s) ∧
  (∀ s : State,
    (s.full = false → ∃ v : Word, v.toNat = (65536 - s.ck.acc.toNat) % 65536 ∧
      exec .ckRd s = .next { s with rspq := s.rspq ++ [.ckval v] }) ∧
    (s.full = true → exec .ckRd s = .next { s with port := some 0x3000 }))

/-- R101, R102, R104, R110: the laws of the checksum function. -/
def Obligations.ChecksumLaws : Prop :=
  (∀ s, checksum s = ~~~ (sum16 s) + 1) ∧
  checksum [] = 0x0000 ∧
  (∀ s, sum16 s + checksum s = 0x0000) ∧
  (∀ s t : List Byte, s.Perm t → checksum s = checksum t) ∧
  (∀ s, checksum (s ++ [0x00]) = checksum s) ∧
  (∀ s t, checksum (s ++ t) = checksum s + checksum t) ∧
  (∀ s, checksum s = 0x0000 ↔ sum16 s = 0x0000) ∧
  (∀ s, s.length ≤ 257 → (sum16 s).toNat = (s.map BitVec.toNat).sum) ∧
  (∀ s, s.length ≤ 255 → (sum16 s).toNat ≤ 65025)

/-- R105: the sum of the bytes before the checksum and the received 16-bit word cancel; the bytewise sum of a whole frame
does not, as the frame `04 c5 04 00 ff 33` shows. -/
def Obligations.FrameLaw : Prop :=
  (∀ (l : Byte) (p : List Byte) (h c : Byte), frameBytes l p = l :: p ++ [h, c] → sum16 (l :: p) + be16 h c = 0x0000) ∧
  sum16 [0x04, 0xC5, 0x04, 0x00, 0xFF, 0x33] = 0x01FF

/-- R109, R63: from any state, after `CK_CLR` and then any moves among which no further `CK_CLR` is (commands to any unit,
steps of ENC, TX and RX, and POPs, in any order), `CK_RD` reports the checksum of exactly the bytes `CK_ADD` added; after a
reset instead of the `CK_CLR`, that of the bytes added after the reset. -/
def Obligations.CkComputesTheChecksum : Prop :=
  ∀ (s t : State) (ms : List Move), Move.command .ckClr ∉ ms →
    applyMoves (.command .ckClr :: ms) s = .next t ∨ applyMoves ms s.rst = .next t → t.full = false →
    exec .ckRd t = .next { t with rspq := t.rspq ++ [.ckval (checksum (addedBytes ms))] }

/-! ## The frame encoder (41_encoder.md) -/

/-- R120, R121, R122: compose fails exactly for payloads of 255 bytes or more; otherwise the frame has `n + 3` bytes, its
byte 0 is `n + 1` and not 0, then comes the payload, then the checksum of all that, high byte first. -/
def Obligations.ComposeShape : Prop :=
  ∀ p : List Byte,
    (255 ≤ p.length → compose p = .error p.length) ∧
    (p.length ≤ 254 → ∃ (l : Byte) (f : List Byte), compose p = .ok f ∧ l.toNat = p.length + 1 ∧
      f.length = p.length + 3 ∧ f = l :: p ++ [hi (checksum (l :: p)), lo (checksum (l :: p))] ∧
      be16 (hi (checksum (l :: p))) (lo (checksum (l :: p))) = checksum (l :: p))

/-- R126: `ENC_START n` is `0x4000 | n`. In IDLE with n at most 254 it loads the length byte n + 1, the count n and the sum,
emits the length byte, and enters CK_HI when n = 0, else PAYLOAD, so that STATUS shows ENC_OBUF_FULL; nothing else changes.
Outside IDLE it raises SequenceError (checked first), with n = 255 FrameTooLarge; an error has no other effect and holds
while RSPQ is full. With RSV not 0 the word executes as an illegal word (R192). -/
def Obligations.EncStartBeginsAFrame : Prop :=
  (∀ n : Byte, decodeWord (0x4000 ||| zext16 n) = .ok (.encStart n)) ∧
  (∀ (w : Word) (s : State), opField w = 0x4 → rsvField w ≠ 0 → runCode (.cmd w) s = raiseIllegal w s) ∧
  (∀ (n : Byte) (s : State),
    (s.enc.phase = .idle → n ≠ 255 → ∃ t, exec (.encStart n) s = .next t ∧
      t.enc.len.toNat = n.toNat + 1 ∧ t.enc.cnt = n ∧ t.enc.acc.toNat = n.toNat + 1 ∧ t.enc.obuf = some t.enc.len ∧
      t.enc.phase = (if n = 0 then .ckHi else .payload) ∧
      (statusWord t.enc t.par).getLsbD 3 = true ∧
      (statusWord t.enc t.par).extractLsb' 0 3 = (if n = 0 then 2 else 1) ∧ { t with enc := s.enc } = s) ∧
    (s.enc.phase ≠ .idle → s.full = false → exec (.encStart n) s = .next { s with
      rspq := s.rspq ++ [.err (.sequenceError .enc (0x4000 ||| zext16 n) s.enc.phase.code)] }) ∧
    (s.enc.phase = .idle → n = 255 → s.full = false →
      exec (.encStart n) s = .next { s with rspq := s.rspq ++ [.err (.frameTooLarge 255)] }) ∧
    (s.enc.phase ≠ .idle ∨ n = 255 → s.full = true →
      exec (.encStart n) s = .next { s with port := some (0x4000 ||| zext16 n) }))

/-- R128: `ENC_PUSH b` is `0x5000 | b`. In PAYLOAD with ENC.obuf empty it emits b, accumulates it and counts down, entering
CK_HI after the last; nothing else changes. In PAYLOAD behind a full ENC.obuf it holds. Outside PAYLOAD it raises
SequenceError with no other effect, holding while RSPQ is full. With RSV not 0 the word executes as an illegal word (R192).
-/
def Obligations.EncPushPassesAPayloadByte : Prop :=
  (∀ b : Byte, decodeWord (0x5000 ||| zext16 b) = .ok (.encPush b)) ∧
  (∀ (w : Word) (s : State), opField w = 0x5 → rsvField w ≠ 0 → runCode (.cmd w) s = raiseIllegal w s) ∧
  (∀ (b : Byte) (s : State),
    (s.enc.phase = .payload → s.enc.obuf = none → ∃ t, exec (.encPush b) s = .next t ∧
      t.enc.obuf = some b ∧ t.enc.acc = s.enc.acc + zext16 b ∧ t.enc.cnt = s.enc.cnt - 1 ∧ t.enc.len = s.enc.len ∧
      t.enc.phase = (if s.enc.cnt - 1 = 0 then .ckHi else .payload) ∧ { t with enc := s.enc } = s) ∧
    (s.enc.phase = .payload → s.enc.obuf ≠ none →
      exec (.encPush b) s = .next { s with port := some (0x5000 ||| zext16 b) }) ∧
    (s.enc.phase ≠ .payload → s.full = false → exec (.encPush b) s = .next { s with
      rspq := s.rspq ++ [.err (.sequenceError .enc (0x5000 ||| zext16 b) s.enc.phase.code)] }) ∧
    (s.enc.phase ≠ .payload → s.full = true →
      exec (.encPush b) s = .next { s with port := some (0x5000 ||| zext16 b) }))

/-- R129, R130, R131: with ENC.obuf empty, the internal step emits the checksum's high byte in CK_HI, its low byte in CK_LO,
and in DRAIN, while RSPQ has room, reports ENC_DONE and returns ENC to IDLE; nothing else changes. With a byte in ENC.obuf,
or in IDLE or PAYLOAD, or in DRAIN with RSPQ full, it is not enabled. -/
def Obligations.EncAppendsTheChecksum : Prop :=
  ∀ s : State,
    (s.enc.phase = .ckHi → s.enc.obuf = none → fire .enc s = .next { s with
      enc := { s.enc with obuf := some (hi (0x0000 - s.enc.acc)), phase := .ckLo } }) ∧
    (s.enc.phase = .ckLo → s.enc.obuf = none → fire .enc s = .next { s with
      enc := { s.enc with obuf := some (lo (0x0000 - s.enc.acc)), phase := .drain } }) ∧
    (s.enc.phase = .drain → s.enc.obuf = none → s.full = false → fire .enc s = .next { s with
      enc := { phase := .idle, len := 0, cnt := 0, acc := 0x0000, obuf := none }
      rspq := s.rspq ++ [.encDone s.enc.len] }) ∧
    (s.enc.obuf ≠ none ∨ s.enc.phase = .idle ∨ s.enc.phase = .payload ∨ (s.enc.phase = .drain ∧ s.full = true) →
      fire .enc s = .next s)

/-- R132: when the LINK accepts the byte in ENC.obuf, TXLOG gains it and ENC.obuf is empty; nothing else changes, and nothing
happens while ENC.obuf is empty. -/
def Obligations.TxAcceptMovesTheByteToTheWire : Prop :=
  ∀ s : State,
    (∀ b, s.enc.obuf = some b →
      fire (.tx .accept) s = .next { s with txlog := s.txlog ++ [b], enc := { s.enc with obuf := none } }) ∧
    (s.enc.obuf = none → fire (.tx .accept) s = .next s)

/-- R133: when the LINK rejects the byte in ENC.obuf and RSPQ has room, TransportError reports the frame size and how many
bytes of the frame the LINK accepted, by the phase; ENC returns to IDLE; the rejected byte is not added to TXLOG and nothing
else changes. While RSPQ is full the step is not enabled. ENC's registers are those R27 allows. -/
def Obligations.TxErrorAbandonsTheFrame : Prop :=
  ∀ (s : State) (b : Byte) (emittedBytes : Nat), s.enc.Inv → s.enc.obuf = some b →
    (s.enc.phase = .payload ∧ emittedBytes = 1 + (s.enc.len.toNat - 1 - s.enc.cnt.toNat)) ∨
      (s.enc.phase = .ckHi ∧ emittedBytes = s.enc.len.toNat) ∨
      (s.enc.phase = .ckLo ∧ emittedBytes = s.enc.len.toNat + 1) ∨
      (s.enc.phase = .drain ∧ emittedBytes = s.enc.len.toNat + 2) →
    fire (.tx .reject) s =
      if s.full then .next s
      else .next { s with
        enc := { phase := .idle, len := 0, cnt := 0, acc := 0x0000, obuf := none }
        rspq := s.rspq ++ [.err (.transportError .enc (s.enc.len.toNat + 2) (emittedBytes - 1))] }

/-- R134 on the schedule in which the LINK accepts each byte as it is emitted: from ENC in IDLE, SEND of a payload of at most
254 bytes puts exactly the bytes of its frame on the wire, in order, and then one ENC_DONE in RSPQ; nothing else of the ZFC
changes. -/
def Obligations.SendPutsTheComposedFrameOnTheWire : Prop :=
  ∀ (s : State) (p : List Byte) (later : List HostAct) (ts : List Turn), p.length ≤ 254 →
    s.enc = Enc.reset → s.port = none → s.full = false →
    s.hostq = (sendWords p).map issueWord ++ later → s.turns = sendTurns p.length ++ ts →
    ∃ (f : List Byte) (l : Byte), compose p = .ok f ∧ l.toNat = p.length + 1 ∧
      run (sendTurns p.length).length s = .next { s with
        txlog := s.txlog ++ f, rspq := s.rspq ++ [.encDone l], hostq := later, turns := ts }

/-- R134 under any interleaving: take ENC in IDLE and any moves, no TX error among them, whose commands to ENC are those of
SEND p, in order, with commands to other units, steps of ENC, TX and RX, and POPs between them as they come. Once ENC is IDLE
again TXLOG has gained exactly the frame of p, and of the events appended meanwhile the only one that reports on ENC is one
ENC_DONE. (A push that is held and not tried again is not executed, and ENC is then not IDLE.) -/
def Obligations.SendReachesTheWireUnderAnyInterleaving : Prop :=
  ∀ (s t : State) (p : List Byte) (n : Byte) (ms : List Move), n.toNat = p.length → p.length ≤ 254 →
    s.enc = Enc.reset → Move.tx .reject ∉ ms → encCommands ms = .encStart n :: p.map Instr.encPush →
    applyMoves ms s = .next t → t.enc.phase = .idle →
    ∃ f new, compose p = .ok f ∧ t.txlog = s.txlog ++ f ∧ t.popped ++ t.rspq = s.popped ++ s.rspq ++ new ∧
      new.filter Event.ofEnc = [.encDone (n + 1)]

/-- R134, R131 under any interleaving: in a state that keeps the invariant, when ENC reports ENC_DONE the end of TXLOG is the
composed frame of a payload of the size that was asked for. -/
def Obligations.EncDoneMeansTheFrameIsOnTheWire : Prop :=
  ∀ s : State, s.Inv → s.enc.phase = .drain → s.enc.obuf = none → s.full = false →
    ∃ t before p f, fire .enc s = .next t ∧ t.rspq = s.rspq ++ [.encDone s.enc.len] ∧ p.length + 1 = s.enc.len.toNat ∧
      compose p = .ok f ∧ t.txlog = before ++ f

/-- R135: in a state that keeps the invariant, when a TX error ends a frame, the end of TXLOG is a proper initial part of a
composed frame with the length byte in progress, and `got` is its length. -/
def Obligations.TxErrorLeavesAProperInitialPart : Prop :=
  ∀ (s : State) (b : Byte), s.Inv → s.enc.obuf = some b → s.full = false →
    ∃ t got before p f, fire (.tx .reject) s = .next t ∧
      t.rspq = s.rspq ++ [.err (.transportError .enc (s.enc.len.toNat + 2) got)] ∧
      p.length + 1 = s.enc.len.toNat ∧ compose p = .ok f ∧ got < f.length ∧
      t.txlog = before ++ f.take got

/-! ## The frame parser (42_parser.md) -/

/-- R158: `PAR_START` is 0x6000 exactly, every other word with its OP executes as an illegal word (R192). In IDLE it arms
PAR, changing nothing else. While PAR is armed it raises SequenceError with no other effect, holding while RSPQ is full. -/
def Obligations.ParStartArmsTheParser : Prop :=
  decodeWord 0x6000 = .ok .parStart ∧
  (∀ (w : Word) (s : State), opField w = 0x6 → w ≠ 0x6000 → runCode (.cmd w) s = raiseIllegal w s) ∧
  (∀ s : State,
    (s.par.phase = .idle → ∃ t, exec .parStart s = .next t ∧ t.par = { s.par with phase := .len } ∧
      (statusWord t.enc t.par).extractLsb' 4 2 = 1 ∧ { t with par := s.par } = s) ∧
    (s.par.phase ≠ .idle → s.full = false → exec .parStart s = .next { s with
      rspq := s.rspq ++ [.err (.sequenceError .par 0x6000 s.par.phase.code)] }) ∧
    (s.par.phase ≠ .idle → s.full = true → exec .parStart s = .next { s with port := some 0x6000 }))

/-- R157: an RX step happens only while PAR is armed, the LINK offers an item and, if the step would append an event, RSPQ
has room; otherwise nothing changes and the LINK keeps the item. -/
def Obligations.RxWaitsUnlessArmedAndOffered : Prop :=
  ∀ s : State,
    (s.par.phase = .idle ∨ s.linkRx = [] → fire .rx s = .next s) ∧
    (∀ x rest, s.linkRx = x :: rest → s.full = true →
      (s.par.phase = .len ∧ (x = .endOfStream ∨ x = .byte 0)) ∨
        (s.par.phase = .body ∧ (x = .endOfStream ∨ (s.par.rem = 1 ∧ s.par.Inv))) →
      fire .rx s = .next s)

/-- R159: in LEN, `End` raises TransportError{PAR, 1, 0}, a zero byte raises MalformedFrame{0}, and both return PAR to IDLE
with the item consumed; any other byte L starts the body with `PAR.rem = L + 1`, computed in 9 bits. -/
def Obligations.RxInLenTakesTheLengthByte : Prop :=
  ∀ (s : State) (rest : List RxItem), s.par.phase = .len →
    (s.linkRx = .endOfStream :: rest → s.full = false → fire .rx s = .next { s with
      linkRx := rest, rxlog := s.rxlog ++ [.endOfStream], par := { s.par with phase := .idle }
      rspq := s.rspq ++ [.err (.transportError .par 1 0)] }) ∧
    (s.linkRx = .byte 0 :: rest → s.full = false → fire .rx s = .next { s with
      linkRx := rest, rxlog := s.rxlog ++ [.byte 0], par := { s.par with phase := .idle }
      rspq := s.rspq ++ [.err (.malformedFrame 0)] }) ∧
    (∀ l : Byte, l ≠ 0 → s.linkRx = .byte l :: rest → ∃ r : BitVec 9, r.toNat = l.toNat + 1 ∧
      fire .rx s = .next { s with
        linkRx := rest, rxlog := s.rxlog ++ [.byte l]
        par := { phase := .body, len := l, rem := r, acc := 0x0000 + zext16 l, buf := [] } })

/-- R160: in BODY a byte that is not the last is appended to PAR.buf and counted, and accumulated only when it is a payload
byte; it produces no event and nothing else changes. -/
def Obligations.RxInBodyTakesAByte : Prop :=
  ∀ (s : State) (b : Byte) (rest : List RxItem),
    s.par.phase = .body → s.linkRx = .byte b :: rest → 1 < s.par.rem.toNat →
    ∃ t, fire .rx s = .next t ∧ t.par.buf = s.par.buf ++ [b] ∧ t.par.rem.toNat = s.par.rem.toNat - 1 ∧
      t.par.acc = (if (s.par.buf.length : Int) < (s.par.len.toNat : Int) - 1 then s.par.acc + zext16 b else s.par.acc) ∧
      t.par.phase = .body ∧ t.par.len = s.par.len ∧
      t = { s with linkRx := rest, rxlog := s.rxlog ++ [.byte b], par := t.par }

/-- R161: in BODY with one byte left, the byte ends the frame: the checksum of the length byte and the payload is compared
with the 16-bit word of the last two bytes of the body, high byte first; FRAME or ChecksumMismatch is appended, and PAR
returns to IDLE. The step is enabled only while RSPQ has room. PAR's registers are those R29 allows. -/
def Obligations.RxOfTheLastByteJudgesTheFrame : Prop :=
  ∀ (s : State) (b : Byte) (rest : List RxItem), s.par.Inv →
    s.par.phase = .body → s.linkRx = .byte b :: rest → s.par.rem = 1 →
    ∃ (payload : List Byte) (h : Byte), s.par.buf ++ [b] = payload ++ [h, b] ∧ payload.length + 1 = s.par.len.toNat ∧
      0x0000 - s.par.acc = checksum (s.par.len :: payload) ∧
      fire .rx s = if s.full then .next s else .next { s with
        linkRx := rest, rxlog := s.rxlog ++ [.byte b]
        par := { phase := .idle, len := 0, rem := 0, acc := 0x0000, buf := [] }
        rspq := s.rspq ++ [if 0x0000 - s.par.acc = be16 h b then .frame s.par.len payload (be16 h b)
          else .err (.checksumMismatch (0x0000 - s.par.acc) (be16 h b))] }

/-- R162: in BODY, `End` raises TransportError with the bytes the body needed and the bytes that arrived, and PAR returns to
IDLE; the bytes read are dropped. -/
def Obligations.RxEndInBodyIsATruncatedFrame : Prop :=
  ∀ (s : State) (rest : List RxItem),
    s.par.phase = .body → s.linkRx = .endOfStream :: rest → s.full = false →
    fire .rx s = .next { s with
      linkRx := rest, rxlog := s.rxlog ++ [.endOfStream]
      par := { phase := .idle, len := 0, rem := 0, acc := 0x0000, buf := [] }
      rspq := s.rspq ++ [.err (.transportError .par (s.par.len.toNat + 1) s.par.buf.length)] }

/-- R163: PAR computes parse. From IDLE, PAR_START and then one RX step for each item parse reads append exactly the one
event parse gives; PAR takes exactly those items and is IDLE again. While parse is not finished with the items offered, PAR
takes them all, appends nothing and stays armed. -/
def Obligations.ParComputesParse : Prop :=
  ∀ (s : State) (ts : List Turn), s.par = Par.reset → s.full = false → ∃ armed, exec .parStart s = .next armed ∧
    (∀ ev rest, parse s.linkRx = some (ev, rest) →
      let taken := s.linkRx.length - rest.length
      s.turns = List.replicate taken .rx ++ ts →
      s.linkRx = s.linkRx.take taken ++ rest ∧
      run taken armed = .next { s with
        linkRx := rest, rxlog := s.rxlog ++ s.linkRx.take taken, rspq := s.rspq ++ [ev], turns := ts }) ∧
    (parse s.linkRx = none → s.turns = List.replicate s.linkRx.length .rx ++ ts →
      ∃ t, run s.linkRx.length armed = .next t ∧ t.linkRx = [] ∧ t.rspq = s.rspq ∧ t.par.phase ≠ .idle)

/-- R167: parse reads back every composed frame, with its payload and checksum, and leaves what follows it unread. -/
def Obligations.ParseReadsBackComposedFrames : Prop :=
  ∀ (p : List Byte) (rest : List RxItem), p.length ≤ 254 →
    ∃ (f : List Byte) (l : Byte), compose p = .ok f ∧ l.toNat = p.length + 1 ∧
      parse (f.map RxItem.byte ++ rest) = some (.frame l p (checksum (l :: p)), rest)

/-- R168: changing exactly one byte of a composed frame at offset 1 or later makes parse report ChecksumMismatch; at offset
0, a length of 0 is malformed, a larger length leaves the read waiting at the end of the frame, and a smaller one can pass,
as `01 ff ff fd ff` shows. -/
def Obligations.TamperedFramesAreCaught : Prop :=
  (∀ (p f : List Byte) (i : Nat) (b : Byte) (rest : List RxItem), compose p = .ok f → 1 ≤ i → i < f.length →
    f[i]? ≠ some b →
    ∃ expected actual, parse ((f.set i b).map RxItem.byte ++ rest) =
      some (.err (.checksumMismatch expected actual), rest) ∧ expected ≠ actual) ∧
  (∀ (p f : List Byte) (b : Byte), compose p = .ok f →
    (b = 0 → parse ((f.set 0 b).map RxItem.byte) = some (.err (.malformedFrame 0), (f.drop 1).map RxItem.byte)) ∧
    (p.length + 1 < b.toNat → parse ((f.set 0 b).map RxItem.byte) = none)) ∧
  compose [0xFF, 0xFF] = .ok [0x03, 0xFF, 0xFF, 0xFD, 0xFF] ∧
  parse ([0x01, 0xFF, 0xFF, 0xFD, 0xFF].map RxItem.byte) =
    some (.frame 0x01 [] 0xFFFF, [.byte 0xFD, .byte 0xFF])

/-- R161, R163 under any interleaving: in a state that keeps the invariant, when the last byte makes PAR report FRAME, the
end of RXLOG is the composed frame of the payload reported. -/
def Obligations.FrameEventMeansAComposedFrameArrived : Prop :=
  ∀ (s t : State) (len : Byte) (payload : List Byte) (ck : Word), s.Inv → fire .rx s = .next t →
    t.rspq = s.rspq ++ [.frame len payload ck] →
    ∃ before f, compose payload = .ok f ∧ t.rxlog = before ++ f.map RxItem.byte

/-! ## The catalog (43_catalog.md) -/

/-- R181 to R185: each catalog entry puts the four commands that send its payload at the head of the HOST's script and
changes nothing else, and the frame of its payload is the wire text of its rule. -/
def Obligations.CatalogEntriesExpandToTheirCommands : Prop :=
  ∀ s : State, ∀ entry ∈ [
      (Instr.aimOn, (0xC5 : Byte), (0x50C5 : Word), (0x33 : Byte)),
      (Instr.aimOff, 0xC4, 0x50C4, 0x34),
      (Instr.illuminationOn, 0xC1, 0x50C1, 0x37),
      (Instr.illuminationOff, 0xC0, 0x50C0, 0x38),
      (Instr.capabilitiesRequest, 0xD3, 0x50D3, 0x25)],
    exec entry.1 s = .next { s with
      hostq := [.issue (.cmd 0x4003), .issue (.cmd entry.2.2.1), .issue (.cmd 0x5004), .issue (.cmd 0x5000)] ++ s.hostq } ∧
    compose [entry.2.1, 0x04, 0x00] = .ok [0x04, entry.2.1, 0x04, 0x00, 0xFF, entry.2.2.2]

/-- R181 to R185, the result under an accepting LINK: issuing a catalog entry with ENC in IDLE puts its wire bytes in TXLOG
and then ENC_DONE{0x04} in RSPQ, and changes nothing else of the ZFC. -/
def Obligations.CatalogFramesReachTheWire : Prop :=
  ∀ (s : State) (later : List HostAct) (ts : List Turn), ∀ entry ∈ [
      (Instr.aimOn, [0x04, 0xC5, 0x04, 0x00, 0xFF, 0x33]),
      (Instr.aimOff, [0x04, 0xC4, 0x04, 0x00, 0xFF, 0x34]),
      (Instr.illuminationOn, [0x04, 0xC1, 0x04, 0x00, 0xFF, 0x37]),
      (Instr.illuminationOff, [0x04, 0xC0, 0x04, 0x00, 0xFF, 0x38]),
      (Instr.capabilitiesRequest, ([0x04, 0xD3, 0x04, 0x00, 0xFF, 0x25] : List Byte))],
    s.enc = Enc.reset → s.port = none → s.full = false →
    s.hostq = .issue (encode entry.1) :: later → s.turns = .host :: sendTurns 3 ++ ts →
    run 14 s = .next { s with
      txlog := s.txlog ++ entry.2, rspq := s.rspq ++ [.encDone 0x04], hostq := later, turns := ts }

/-! ## The whole machine -/

/-- The invariant holds at reset. -/
def Obligations.ResetKeepsTheInvariant : Prop := State.reset.Inv

/-- R27, R29, R31: every step keeps the invariant: ENC's and PAR's registers, their agreement with the bytes on the wire, the
events as R30, R210 and R211 allow them, and the depth of RSPQ. -/
def Obligations.EveryStepKeepsTheInvariant : Prop :=
  ∀ s t : State, s.Inv → step s = .next t → t.Inv

/-- R193, R214: in a state that keeps the invariant no step faults, and a step is refused only where the HOST's script names
a catalog entry that does not exist. -/
def Obligations.NoStepFaultsFromTheInvariant : Prop :=
  ∀ s : State, s.Inv →
    (∃ t, step s = .next t) ∨
    ∃ b later, s.nextTurn = .host ∧ s.hostq = .issue (.frame b) :: later ∧ b ∉ catalogOpcodes ∧
      step s = .refused (.notInCatalog b)

/-- R32, R62: a step appends at most one event, at the tail, and none is dropped or reordered: what the HOST has popped
followed by what RSPQ holds only grows at its end. Only a reset drops events, and it appends none. -/
def Obligations.EventsAreKeptInOrder : Prop :=
  ∀ s t : State, step s = .next t →
    (s.nextTurn ≠ .rst → (s.nextTurn = .host → s.hostq.head? ≠ some .rst) →
      ∃ new : List Event, new.length ≤ 1 ∧ t.popped ++ t.rspq = s.popped ++ s.rspq ++ new) ∧
    (s.nextTurn = .rst ∨ (s.nextTurn = .host ∧ s.hostq.head? = some .rst) → t.rspq = [] ∧ t.popped = s.popped)

/-- R31, R193: while RSPQ is full no step makes it longer. -/
def Obligations.FullQueueNeverGrows : Prop :=
  ∀ s t : State, s.full = true → step s = .next t → t.rspq.length ≤ s.rspq.length

/-- R63, R197: but for a reset, a step changes at most one of the units CK, ENC and PAR. -/
def Obligations.StepTouchesAtMostOneUnit : Prop :=
  ∀ s t : State, step s = .next t → s.nextTurn ≠ .rst → (s.nextTurn = .host → s.hostq.head? ≠ some .rst) →
    (t.enc = s.enc ∧ t.par = s.par) ∨ (t.ck = s.ck ∧ t.par = s.par) ∨ (t.ck = s.ck ∧ t.enc = s.enc)

/-- R63: what a command or a step makes of a unit depends on that unit's own registers (with its own stream for PAR) and on
whether RSPQ is full, never on the other units. -/
def Obligations.UnitsDoNotSeeEachOther : Prop :=
  ∀ s1 s2 t1 t2 : State, s1.full = s2.full →
    (∀ i, exec i s1 = .next t1 → exec i s2 = .next t2 →
      (s1.ck = s2.ck → t1.ck = t2.ck) ∧ (s1.enc = s2.enc → t1.enc = t2.enc) ∧ (s1.par = s2.par → t1.par = t2.par)) ∧
    (s1.enc = s2.enc → fire .enc s1 = .next t1 → fire .enc s2 = .next t2 → t1.enc = t2.enc) ∧
    (∀ a, s1.enc = s2.enc → fire (.tx a) s1 = .next t1 → fire (.tx a) s2 = .next t2 → t1.enc = t2.enc) ∧
    (s1.par = s2.par → s1.linkRx = s2.linkRx → fire .rx s1 = .next t1 → fire .rx s2 = .next t2 → t1.par = t2.par)

/-- R57, R59, R60, R241: no step, reset included, takes anything back from the wire: TXLOG gains at most the byte ENC.obuf
held, and RXLOG at most the LINK's oldest item, which is then no longer offered. -/
def Obligations.WireRecordsOnlyGrow : Prop :=
  ∀ s t : State, step s = .next t →
    (t.txlog = s.txlog ∨ ∃ b, s.enc.obuf = some b ∧ t.enc.obuf = none ∧ t.txlog = s.txlog ++ [b]) ∧
    ((t.rxlog = s.rxlog ∧ ∃ more, t.linkRx = s.linkRx ++ more) ∨
      ∃ x rest, s.linkRx = x :: rest ∧ t.linkRx = rest ∧ t.rxlog = s.rxlog ++ [x])

/-- R61, R190, R240: a presented word stays presented until its own step executes it or a reset discards it; no other word
takes its place. -/
def Obligations.HeldWordStaysPresented : Prop :=
  ∀ (s t : State) (w : Word), s.port = some w → step s = .next t →
    t.port = some w ∨
    (t.port = none ∧
      (s.nextTurn = .port ∨ s.nextTurn = .rst ∨ (s.nextTurn = .host ∧ s.hostq.head? = some .rst)))

/-- R39: no step changes the parameter RSPQ_DEPTH. -/
def Obligations.NoStepChangesTheDepth : Prop :=
  ∀ s t : State, step s = .next t → t.rspqDepth = s.rspqDepth

/-- R210, R211: the codes of the error kinds and the units that raise them. -/
def Obligations.ErrorCodesAndUnits : Prop :=
  (∀ n, (ErrInfo.frameTooLarge n).code = 1 ∧ (ErrInfo.frameTooLarge n).unit = .enc) ∧
  (∀ l, (ErrInfo.malformedFrame l).code = 2 ∧ (ErrInfo.malformedFrame l).unit = .par) ∧
  (∀ e a, (ErrInfo.checksumMismatch e a).code = 3 ∧ (ErrInfo.checksumMismatch e a).unit = .par) ∧
  (∀ u e g, (ErrInfo.transportError u e g).code = 4 ∧ (ErrInfo.transportError u e g).unit = u) ∧
  (∀ w, (ErrInfo.illegalCommand w).code = 5 ∧ (ErrInfo.illegalCommand w).unit = .cmd) ∧
  (∀ u w p, (ErrInfo.sequenceError u w p).code = 6 ∧ (ErrInfo.sequenceError u w p).unit = u) ∧
  UnitId.cmd.code = 0 ∧ UnitId.ck.code = 1 ∧ UnitId.enc.code = 2 ∧ UnitId.par.code = 3

/-- R255: in a state where the run is over, whichever of the block's steps is tried (a held word, ENC, TX, RX) nothing changes,
and the HOST's script has at most resets left. A step chosen to come next leaves what is observed of the run as it is, unless
it is a reset, and the run stays over, unless an item from the device arrives. A run that is over with a word still held is
not a completed one. PAR's registers are those R29 allows. What counts as the HOST's further commands and pops is log entry
13. -/
def Obligations.NothingMovesWhenTheRunIsOver : Prop :=
  ∀ s : State, s.par.Inv → s.runOver = true →
    (fire .port s = .next s ∧ fire .enc s = .next s ∧ (∀ a, fire (.tx a) s = .next s) ∧ fire .rx s = .next s) ∧
    (fire .host s = .next s ∨
      ∃ later, s.hostq = .rst :: later ∧ fire .host s = fire .rst { s with hostq := later }) ∧
    (s.turns ≠ [] → ∃ t, step s = .next t ∧
      (s.nextTurn = .rst ∨ (s.nextTurn = .host ∧ s.hostq.head? = some .rst) ∨ t.observe = s.observe) ∧
      ((∃ x, s.nextTurn = .arrive x) ∨ t.runOver = true)) ∧
    (s.port ≠ none → s.completed = false)

/-- R198: the events each step can append, one event or none: a command or an illegal word; ENC's internal step (ENC_DONE, from
DRAIN alone); a TX accept (nothing) and a TX error (TransportError); an RX step (FRAME on the last byte alone, or one of
PAR's errors). -/
def Obligations.EventsEachStepCanAppend : Prop :=
  ∀ s t : State,
    (∀ w r, decodeWord w = .error r → runCode (.cmd w) s = .next t →
      s.appendsOnly t (· = .err (.illegalCommand w))) ∧
    (∀ i, exec i s = .next t →
      match i with
      | .ckRd => s.appendsOnly t fun ev => ∃ v, ev = .ckval v
      | .statRd => s.appendsOnly t fun ev => ∃ w, ev = .status w
      | .encStart n => s.appendsOnly t fun ev =>
          (∃ w p, ev = .err (.sequenceError .enc w p)) ∨ ev = .err (.frameTooLarge n)
      | .encPush _ => s.appendsOnly t fun ev => ∃ w p, ev = .err (.sequenceError .enc w p)
      | .parStart => s.appendsOnly t fun ev => ∃ w p, ev = .err (.sequenceError .par w p)
      | .nop | .ckClr | .ckAdd _ => t.rspq = s.rspq
      | .aimOn | .aimOff | .illuminationOn | .illuminationOff | .capabilitiesRequest => t.rspq = s.rspq) ∧
    (fire .enc s = .next t → s.appendsOnly t fun ev => s.enc.phase = .drain ∧ ∃ l, ev = .encDone l) ∧
    (fire (.tx .accept) s = .next t → t.rspq = s.rspq) ∧
    (fire (.tx .reject) s = .next t → s.appendsOnly t fun ev => ∃ e g, ev = .err (.transportError .enc e g)) ∧
    (fire .rx s = .next t → s.appendsOnly t fun ev =>
      (s.par.phase = .body ∧ s.par.rem = 1 ∧ ∃ l p c, ev = .frame l p c) ∨
        (∃ e g, ev = .err (.transportError .par e g)) ∨ (∃ l, ev = .err (.malformedFrame l)) ∨
        ∃ e a, ev = .err (.checksumMismatch e a))
end

