-- ==== Sys2Proof/Laws/Encoding.lean ====
section
/-! SUPPORT. The fields of the three command words with an operand (R71 to R73), and what each decodes to. -/

namespace Sys2Proof

/-- `CK_ADD b` is legal and decodes to itself. -/
theorem decodeWord_ckAddWord (b : Byte) :
    wordLegal (ckAddWord b) = true ∧ decodeWord (ckAddWord b) = .ok (.ckAdd b) := by
  have h : ∀ b : Byte, wordLegal (ckAddWord b) = true ∧ (opField (ckAddWord b)).toNat = 2 ∧
      rsvField (ckAddWord b) = 0 ∧ immField (ckAddWord b) = b := by decide
  obtain ⟨h1, h2, h3, h4⟩ := h b
  exact ⟨h1, by simp [decodeWord, h2, h3, h4]⟩

/-- `ENC_START n` is legal and decodes to itself. -/
theorem decodeWord_encStartWord (n : Byte) :
    wordLegal (encStartWord n) = true ∧ decodeWord (encStartWord n) = .ok (.encStart n) := by
  have h : ∀ b : Byte, wordLegal (encStartWord b) = true ∧ (opField (encStartWord b)).toNat = 4 ∧
      rsvField (encStartWord b) = 0 ∧ immField (encStartWord b) = b := by decide
  obtain ⟨h1, h2, h3, h4⟩ := h n
  exact ⟨h1, by simp [decodeWord, h2, h3, h4]⟩

/-- `ENC_PUSH b` is legal and decodes to itself. -/
theorem decodeWord_encPushWord (b : Byte) :
    wordLegal (encPushWord b) = true ∧ decodeWord (encPushWord b) = .ok (.encPush b) := by
  have h : ∀ b : Byte, wordLegal (encPushWord b) = true ∧ (opField (encPushWord b)).toNat = 5 ∧
      rsvField (encPushWord b) = 0 ∧ immField (encPushWord b) = b := by decide
  obtain ⟨h1, h2, h3, h4⟩ := h b
  exact ⟨h1, by simp [decodeWord, h2, h3, h4]⟩

end Sys2Proof
end

