-- ==== Sys2Proof/Laws/State.lean ====
section
/-! SUPPORT. One lemma for each field of State under each of its updates, so that no later proof unfolds an update. -/

namespace Sys2Proof.Machine

@[simp] theorem State.setCkAcc_ck (s : State) (v : Word) : (s.setCkAcc v).ck = { acc := v } := rfl
@[simp] theorem State.setCkAcc_enc (s : State) (v : Word) : (s.setCkAcc v).enc = s.enc := rfl
@[simp] theorem State.setCkAcc_par (s : State) (v : Word) : (s.setCkAcc v).par = s.par := rfl
@[simp] theorem State.setCkAcc_rspq (s : State) (v : Word) : (s.setCkAcc v).rspq = s.rspq := rfl
@[simp] theorem State.setCkAcc_rspqDepth (s : State) (v : Word) : (s.setCkAcc v).rspqDepth = s.rspqDepth := rfl
@[simp] theorem State.setCkAcc_port (s : State) (v : Word) : (s.setCkAcc v).port = s.port := rfl
@[simp] theorem State.setCkAcc_txlog (s : State) (v : Word) : (s.setCkAcc v).txlog = s.txlog := rfl
@[simp] theorem State.setCkAcc_rxlog (s : State) (v : Word) : (s.setCkAcc v).rxlog = s.rxlog := rfl
@[simp] theorem State.setCkAcc_popped (s : State) (v : Word) : (s.setCkAcc v).popped = s.popped := rfl
@[simp] theorem State.setCkAcc_linkRx (s : State) (v : Word) : (s.setCkAcc v).linkRx = s.linkRx := rfl
@[simp] theorem State.setCkAcc_hostq (s : State) (v : Word) : (s.setCkAcc v).hostq = s.hostq := rfl
@[simp] theorem State.setCkAcc_turns (s : State) (v : Word) : (s.setCkAcc v).turns = s.turns := rfl
@[simp] theorem State.setCkAcc_tick (s : State) (v : Word) : (s.setCkAcc v).tick = s.tick := rfl

@[simp] theorem State.setEnc_ck (s : State) (e : Enc) : (s.setEnc e).ck = s.ck := rfl
@[simp] theorem State.setEnc_enc (s : State) (e : Enc) : (s.setEnc e).enc = e := rfl
@[simp] theorem State.setEnc_par (s : State) (e : Enc) : (s.setEnc e).par = s.par := rfl
@[simp] theorem State.setEnc_rspq (s : State) (e : Enc) : (s.setEnc e).rspq = s.rspq := rfl
@[simp] theorem State.setEnc_rspqDepth (s : State) (e : Enc) : (s.setEnc e).rspqDepth = s.rspqDepth := rfl
@[simp] theorem State.setEnc_port (s : State) (e : Enc) : (s.setEnc e).port = s.port := rfl
@[simp] theorem State.setEnc_txlog (s : State) (e : Enc) : (s.setEnc e).txlog = s.txlog := rfl
@[simp] theorem State.setEnc_rxlog (s : State) (e : Enc) : (s.setEnc e).rxlog = s.rxlog := rfl
@[simp] theorem State.setEnc_popped (s : State) (e : Enc) : (s.setEnc e).popped = s.popped := rfl
@[simp] theorem State.setEnc_linkRx (s : State) (e : Enc) : (s.setEnc e).linkRx = s.linkRx := rfl
@[simp] theorem State.setEnc_hostq (s : State) (e : Enc) : (s.setEnc e).hostq = s.hostq := rfl
@[simp] theorem State.setEnc_turns (s : State) (e : Enc) : (s.setEnc e).turns = s.turns := rfl
@[simp] theorem State.setEnc_tick (s : State) (e : Enc) : (s.setEnc e).tick = s.tick := rfl

@[simp] theorem State.setPar_ck (s : State) (p : Par) : (s.setPar p).ck = s.ck := rfl
@[simp] theorem State.setPar_enc (s : State) (p : Par) : (s.setPar p).enc = s.enc := rfl
@[simp] theorem State.setPar_par (s : State) (p : Par) : (s.setPar p).par = p := rfl
@[simp] theorem State.setPar_rspq (s : State) (p : Par) : (s.setPar p).rspq = s.rspq := rfl
@[simp] theorem State.setPar_rspqDepth (s : State) (p : Par) : (s.setPar p).rspqDepth = s.rspqDepth := rfl
@[simp] theorem State.setPar_port (s : State) (p : Par) : (s.setPar p).port = s.port := rfl
@[simp] theorem State.setPar_txlog (s : State) (p : Par) : (s.setPar p).txlog = s.txlog := rfl
@[simp] theorem State.setPar_rxlog (s : State) (p : Par) : (s.setPar p).rxlog = s.rxlog := rfl
@[simp] theorem State.setPar_popped (s : State) (p : Par) : (s.setPar p).popped = s.popped := rfl
@[simp] theorem State.setPar_linkRx (s : State) (p : Par) : (s.setPar p).linkRx = s.linkRx := rfl
@[simp] theorem State.setPar_hostq (s : State) (p : Par) : (s.setPar p).hostq = s.hostq := rfl
@[simp] theorem State.setPar_turns (s : State) (p : Par) : (s.setPar p).turns = s.turns := rfl
@[simp] theorem State.setPar_tick (s : State) (p : Par) : (s.setPar p).tick = s.tick := rfl

@[simp] theorem State.setPort_ck (s : State) (w : Option Word) : (s.setPort w).ck = s.ck := rfl
@[simp] theorem State.setPort_enc (s : State) (w : Option Word) : (s.setPort w).enc = s.enc := rfl
@[simp] theorem State.setPort_par (s : State) (w : Option Word) : (s.setPort w).par = s.par := rfl
@[simp] theorem State.setPort_rspq (s : State) (w : Option Word) : (s.setPort w).rspq = s.rspq := rfl
@[simp] theorem State.setPort_rspqDepth (s : State) (w : Option Word) : (s.setPort w).rspqDepth = s.rspqDepth := rfl
@[simp] theorem State.setPort_port (s : State) (w : Option Word) : (s.setPort w).port = w := rfl
@[simp] theorem State.setPort_txlog (s : State) (w : Option Word) : (s.setPort w).txlog = s.txlog := rfl
@[simp] theorem State.setPort_rxlog (s : State) (w : Option Word) : (s.setPort w).rxlog = s.rxlog := rfl
@[simp] theorem State.setPort_popped (s : State) (w : Option Word) : (s.setPort w).popped = s.popped := rfl
@[simp] theorem State.setPort_linkRx (s : State) (w : Option Word) : (s.setPort w).linkRx = s.linkRx := rfl
@[simp] theorem State.setPort_hostq (s : State) (w : Option Word) : (s.setPort w).hostq = s.hostq := rfl
@[simp] theorem State.setPort_turns (s : State) (w : Option Word) : (s.setPort w).turns = s.turns := rfl
@[simp] theorem State.setPort_tick (s : State) (w : Option Word) : (s.setPort w).tick = s.tick := rfl

@[simp] theorem State.setHostq_ck (s : State) (q : List HostAct) : (s.setHostq q).ck = s.ck := rfl
@[simp] theorem State.setHostq_enc (s : State) (q : List HostAct) : (s.setHostq q).enc = s.enc := rfl
@[simp] theorem State.setHostq_par (s : State) (q : List HostAct) : (s.setHostq q).par = s.par := rfl
@[simp] theorem State.setHostq_rspq (s : State) (q : List HostAct) : (s.setHostq q).rspq = s.rspq := rfl
@[simp] theorem State.setHostq_rspqDepth (s : State) (q : List HostAct) : (s.setHostq q).rspqDepth = s.rspqDepth := rfl
@[simp] theorem State.setHostq_port (s : State) (q : List HostAct) : (s.setHostq q).port = s.port := rfl
@[simp] theorem State.setHostq_txlog (s : State) (q : List HostAct) : (s.setHostq q).txlog = s.txlog := rfl
@[simp] theorem State.setHostq_rxlog (s : State) (q : List HostAct) : (s.setHostq q).rxlog = s.rxlog := rfl
@[simp] theorem State.setHostq_popped (s : State) (q : List HostAct) : (s.setHostq q).popped = s.popped := rfl
@[simp] theorem State.setHostq_linkRx (s : State) (q : List HostAct) : (s.setHostq q).linkRx = s.linkRx := rfl
@[simp] theorem State.setHostq_hostq (s : State) (q : List HostAct) : (s.setHostq q).hostq = q := rfl
@[simp] theorem State.setHostq_turns (s : State) (q : List HostAct) : (s.setHostq q).turns = s.turns := rfl
@[simp] theorem State.setHostq_tick (s : State) (q : List HostAct) : (s.setHostq q).tick = s.tick := rfl

@[simp] theorem State.respond_ck (s : State) (ev : Event) : (s.respond ev).ck = s.ck := rfl
@[simp] theorem State.respond_enc (s : State) (ev : Event) : (s.respond ev).enc = s.enc := rfl
@[simp] theorem State.respond_par (s : State) (ev : Event) : (s.respond ev).par = s.par := rfl
@[simp] theorem State.respond_rspq (s : State) (ev : Event) : (s.respond ev).rspq = s.rspq ++ [ev] := rfl
@[simp] theorem State.respond_rspqDepth (s : State) (ev : Event) : (s.respond ev).rspqDepth = s.rspqDepth := rfl
@[simp] theorem State.respond_port (s : State) (ev : Event) : (s.respond ev).port = s.port := rfl
@[simp] theorem State.respond_txlog (s : State) (ev : Event) : (s.respond ev).txlog = s.txlog := rfl
@[simp] theorem State.respond_rxlog (s : State) (ev : Event) : (s.respond ev).rxlog = s.rxlog := rfl
@[simp] theorem State.respond_popped (s : State) (ev : Event) : (s.respond ev).popped = s.popped := rfl
@[simp] theorem State.respond_linkRx (s : State) (ev : Event) : (s.respond ev).linkRx = s.linkRx := rfl
@[simp] theorem State.respond_hostq (s : State) (ev : Event) : (s.respond ev).hostq = s.hostq := rfl
@[simp] theorem State.respond_turns (s : State) (ev : Event) : (s.respond ev).turns = s.turns := rfl
@[simp] theorem State.respond_tick (s : State) (ev : Event) : (s.respond ev).tick = s.tick := rfl

@[simp] theorem State.raise_ck (s : State) (e : ErrInfo) : (s.raise e).ck = s.ck := rfl
@[simp] theorem State.raise_enc (s : State) (e : ErrInfo) : (s.raise e).enc = s.enc := rfl
@[simp] theorem State.raise_par (s : State) (e : ErrInfo) : (s.raise e).par = s.par := rfl
@[simp] theorem State.raise_rspq (s : State) (e : ErrInfo) : (s.raise e).rspq = s.rspq ++ [.err e] := rfl
@[simp] theorem State.raise_rspqDepth (s : State) (e : ErrInfo) : (s.raise e).rspqDepth = s.rspqDepth := rfl
@[simp] theorem State.raise_port (s : State) (e : ErrInfo) : (s.raise e).port = s.port := rfl
@[simp] theorem State.raise_txlog (s : State) (e : ErrInfo) : (s.raise e).txlog = s.txlog := rfl
@[simp] theorem State.raise_rxlog (s : State) (e : ErrInfo) : (s.raise e).rxlog = s.rxlog := rfl
@[simp] theorem State.raise_popped (s : State) (e : ErrInfo) : (s.raise e).popped = s.popped := rfl
@[simp] theorem State.raise_linkRx (s : State) (e : ErrInfo) : (s.raise e).linkRx = s.linkRx := rfl
@[simp] theorem State.raise_hostq (s : State) (e : ErrInfo) : (s.raise e).hostq = s.hostq := rfl
@[simp] theorem State.raise_turns (s : State) (e : ErrInfo) : (s.raise e).turns = s.turns := rfl
@[simp] theorem State.raise_tick (s : State) (e : ErrInfo) : (s.raise e).tick = s.tick := rfl

@[simp] theorem State.takeItem_ck (s : State) (x : RxItem) (rest : List RxItem) : (s.takeItem x rest).ck = s.ck := rfl
@[simp] theorem State.takeItem_enc (s : State) (x : RxItem) (rest : List RxItem) : (s.takeItem x rest).enc = s.enc := rfl
@[simp] theorem State.takeItem_par (s : State) (x : RxItem) (rest : List RxItem) : (s.takeItem x rest).par = s.par := rfl
@[simp] theorem State.takeItem_rspq (s : State) (x : RxItem) (rest : List RxItem) : (s.takeItem x rest).rspq = s.rspq := rfl
@[simp] theorem State.takeItem_rspqDepth (s : State) (x : RxItem) (rest : List RxItem) : (s.takeItem x rest).rspqDepth = s.rspqDepth := rfl
@[simp] theorem State.takeItem_port (s : State) (x : RxItem) (rest : List RxItem) : (s.takeItem x rest).port = s.port := rfl
@[simp] theorem State.takeItem_txlog (s : State) (x : RxItem) (rest : List RxItem) : (s.takeItem x rest).txlog = s.txlog := rfl
@[simp] theorem State.takeItem_rxlog (s : State) (x : RxItem) (rest : List RxItem) : (s.takeItem x rest).rxlog = s.rxlog ++ [x] := rfl
@[simp] theorem State.takeItem_popped (s : State) (x : RxItem) (rest : List RxItem) : (s.takeItem x rest).popped = s.popped := rfl
@[simp] theorem State.takeItem_linkRx (s : State) (x : RxItem) (rest : List RxItem) : (s.takeItem x rest).linkRx = rest := rfl
@[simp] theorem State.takeItem_hostq (s : State) (x : RxItem) (rest : List RxItem) : (s.takeItem x rest).hostq = s.hostq := rfl
@[simp] theorem State.takeItem_turns (s : State) (x : RxItem) (rest : List RxItem) : (s.takeItem x rest).turns = s.turns := rfl
@[simp] theorem State.takeItem_tick (s : State) (x : RxItem) (rest : List RxItem) : (s.takeItem x rest).tick = s.tick := rfl

@[simp] theorem State.sendByte_ck (s : State) (b : Byte) : (s.sendByte b).ck = s.ck := rfl
@[simp] theorem State.sendByte_enc (s : State) (b : Byte) : (s.sendByte b).enc = s.enc := rfl
@[simp] theorem State.sendByte_par (s : State) (b : Byte) : (s.sendByte b).par = s.par := rfl
@[simp] theorem State.sendByte_rspq (s : State) (b : Byte) : (s.sendByte b).rspq = s.rspq := rfl
@[simp] theorem State.sendByte_rspqDepth (s : State) (b : Byte) : (s.sendByte b).rspqDepth = s.rspqDepth := rfl
@[simp] theorem State.sendByte_port (s : State) (b : Byte) : (s.sendByte b).port = s.port := rfl
@[simp] theorem State.sendByte_txlog (s : State) (b : Byte) : (s.sendByte b).txlog = s.txlog ++ [b] := rfl
@[simp] theorem State.sendByte_rxlog (s : State) (b : Byte) : (s.sendByte b).rxlog = s.rxlog := rfl
@[simp] theorem State.sendByte_popped (s : State) (b : Byte) : (s.sendByte b).popped = s.popped := rfl
@[simp] theorem State.sendByte_linkRx (s : State) (b : Byte) : (s.sendByte b).linkRx = s.linkRx := rfl
@[simp] theorem State.sendByte_hostq (s : State) (b : Byte) : (s.sendByte b).hostq = s.hostq := rfl
@[simp] theorem State.sendByte_turns (s : State) (b : Byte) : (s.sendByte b).turns = s.turns := rfl
@[simp] theorem State.sendByte_tick (s : State) (b : Byte) : (s.sendByte b).tick = s.tick := rfl

@[simp] theorem State.rst_ck (s : State) : s.rst.ck = Ck.reset := rfl
@[simp] theorem State.rst_enc (s : State) : s.rst.enc = Enc.reset := rfl
@[simp] theorem State.rst_par (s : State) : s.rst.par = Par.reset := rfl
@[simp] theorem State.rst_rspq (s : State) : s.rst.rspq = [] := rfl
@[simp] theorem State.rst_rspqDepth (s : State) : s.rst.rspqDepth = s.rspqDepth := rfl
@[simp] theorem State.rst_port (s : State) : s.rst.port = none := rfl
@[simp] theorem State.rst_txlog (s : State) : s.rst.txlog = s.txlog := rfl
@[simp] theorem State.rst_rxlog (s : State) : s.rst.rxlog = s.rxlog := rfl
@[simp] theorem State.rst_popped (s : State) : s.rst.popped = s.popped := rfl
@[simp] theorem State.rst_linkRx (s : State) : s.rst.linkRx = s.linkRx := rfl
@[simp] theorem State.rst_hostq (s : State) : s.rst.hostq = s.hostq := rfl
@[simp] theorem State.rst_turns (s : State) : s.rst.turns = s.turns := rfl
@[simp] theorem State.rst_tick (s : State) : s.rst.tick = s.tick := rfl

@[simp] theorem State.withCode_ck (s : State) (c : Code) : (s.withCode c).ck = s.ck := rfl
@[simp] theorem State.withCode_enc (s : State) (c : Code) : (s.withCode c).enc = s.enc := rfl
@[simp] theorem State.withCode_par (s : State) (c : Code) : (s.withCode c).par = s.par := rfl
@[simp] theorem State.withCode_rspq (s : State) (c : Code) : (s.withCode c).rspq = s.rspq := rfl
@[simp] theorem State.withCode_rspqDepth (s : State) (c : Code) : (s.withCode c).rspqDepth = s.rspqDepth := rfl
@[simp] theorem State.withCode_port (s : State) (c : Code) : (s.withCode c).port = none := rfl
@[simp] theorem State.withCode_txlog (s : State) (c : Code) : (s.withCode c).txlog = s.txlog := rfl
@[simp] theorem State.withCode_rxlog (s : State) (c : Code) : (s.withCode c).rxlog = s.rxlog := rfl
@[simp] theorem State.withCode_popped (s : State) (c : Code) : (s.withCode c).popped = s.popped := rfl
@[simp] theorem State.withCode_linkRx (s : State) (c : Code) : (s.withCode c).linkRx = s.linkRx := rfl
@[simp] theorem State.withCode_hostq (s : State) (c : Code) : (s.withCode c).hostq = .issue c :: s.hostq := rfl
@[simp] theorem State.withCode_turns (s : State) (c : Code) : (s.withCode c).turns = .host :: s.turns := rfl
@[simp] theorem State.withCode_tick (s : State) (c : Code) : (s.withCode c).tick = s.tick := rfl

@[simp] theorem State.dropTurn_ck (s : State) : s.dropTurn.ck = s.ck := by
  unfold State.dropTurn; split <;> rfl
@[simp] theorem State.dropTurn_enc (s : State) : s.dropTurn.enc = s.enc := by
  unfold State.dropTurn; split <;> rfl
@[simp] theorem State.dropTurn_par (s : State) : s.dropTurn.par = s.par := by
  unfold State.dropTurn; split <;> rfl
@[simp] theorem State.dropTurn_rspq (s : State) : s.dropTurn.rspq = s.rspq := by
  unfold State.dropTurn; split <;> rfl
@[simp] theorem State.dropTurn_rspqDepth (s : State) : s.dropTurn.rspqDepth = s.rspqDepth := by
  unfold State.dropTurn; split <;> rfl
@[simp] theorem State.dropTurn_port (s : State) : s.dropTurn.port = s.port := by
  unfold State.dropTurn; split <;> rfl
@[simp] theorem State.dropTurn_txlog (s : State) : s.dropTurn.txlog = s.txlog := by
  unfold State.dropTurn; split <;> rfl
@[simp] theorem State.dropTurn_rxlog (s : State) : s.dropTurn.rxlog = s.rxlog := by
  unfold State.dropTurn; split <;> rfl
@[simp] theorem State.dropTurn_popped (s : State) : s.dropTurn.popped = s.popped := by
  unfold State.dropTurn; split <;> rfl
@[simp] theorem State.dropTurn_linkRx (s : State) : s.dropTurn.linkRx = s.linkRx := by
  unfold State.dropTurn; split <;> rfl
@[simp] theorem State.dropTurn_hostq (s : State) : s.dropTurn.hostq = s.hostq := by
  unfold State.dropTurn; split <;> rfl

/-- The choice made is the head of `turns` when there is one. -/
theorem State.dropTurn_of_cons {s : State} {t : Turn} {ts : List Turn} (h : s.turns = t :: ts) :
    s.dropTurn = { s with turns := ts } := by
  unfold State.dropTurn; rw [h]

theorem State.nextTurn_of_cons {s : State} {t : Turn} {ts : List Turn} (h : s.turns = t :: ts) :
    s.nextTurn = t := by
  unfold State.nextTurn; rw [h]

end Sys2Proof.Machine
end

