-- ==== Sys2Proof/Laws/Ops.lean ====
section
/-! SUPPORT. For each shared operation, what it can answer, said once; the decoder on each encoded instruction; and the
laws of the accumulators. -/

namespace Sys2Proof.Machine

/-! ## The queue -/

/-- An empty queue is never full (R8, R31). -/
@[simp] theorem isFull_nil (d : Depth) : Depth.isFull d [] = false := rfl

theorem full_of_empty {s : State} (h : s.rspq = []) : s.full = false := by
  simp [State.full, h]

/-- Fullness depends on the depth and the queue alone. -/
theorem full_congr {s t : State} (hd : s.rspqDepth = t.rspqDepth) (hq : s.rspq = t.rspq) : s.full = t.full := by
  simp [State.full, hd, hq]

/-- A queue within its depth that is not full keeps within it when one event is appended (R31). -/
theorem holds_append {d : Depth} {q : List Event} (ev : Event) (hf : Depth.isFull d q = false) :
    Depth.Holds d (q ++ [ev]) := by
  cases d with
  | unbounded => trivial
  | atLeastOne k =>
    cases q with
    | nil => simp [Depth.Holds]
    | cons a l => simp [Depth.isFull] at hf; simp [Depth.Holds]; omega

theorem notEnabled_next {s t : State} (h : notEnabled s = .next t) : t = s := by
  simp only [notEnabled, Host.Outcome.next.injEq] at h; exact h.symm

theorem hold_next {w : Word} {s t : State} (h : hold w s = .next t) : t = s.setPort (some w) := by
  simp only [hold, Host.Outcome.next.injEq] at h; exact h.symm

/-- A responding command holds while RSPQ is full, else it appends its event. -/
theorem respondOrHold_next {w : Word} {ev : Event} {s t : State} (h : respondOrHold w ev s = .next t) :
    (s.full = true ∧ t = s.setPort (some w)) ∨ (s.full = false ∧ t = s.respond ev) := by
  unfold respondOrHold at h
  split at h
  · exact .inl ⟨‹_›, hold_next h⟩
  · simp only [Host.Outcome.next.injEq] at h; exact .inr ⟨Bool.eq_false_of_not_eq_true ‹_›, h.symm⟩

/-- A command error holds while RSPQ is full, else it appends its ERR event. -/
theorem raiseOrHold_next {w : Word} {e : ErrInfo} {s t : State} (h : raiseOrHold w e s = .next t) :
    (s.full = true ∧ t = s.setPort (some w)) ∨ (s.full = false ∧ t = s.raise e) := by
  unfold raiseOrHold at h
  split at h
  · exact .inl ⟨‹_›, hold_next h⟩
  · simp only [Host.Outcome.next.injEq] at h; exact .inr ⟨Bool.eq_false_of_not_eq_true ‹_›, h.symm⟩

theorem popStep_next {s t : State} (h : popStep s = .next t) :
    (s.rspq = [] ∧ t = s) ∨
    ∃ ev rest, s.rspq = ev :: rest ∧ t = { s with rspq := rest, popped := s.popped ++ [ev] } := by
  unfold popStep at h
  split at h
  · exact .inl ⟨‹_›, notEnabled_next h⟩
  · rename_i ev rest hq
    simp only [Host.Outcome.next.injEq] at h; exact .inr ⟨ev, rest, hq, h.symm⟩

/-! ## The steps of ENC, the LINK and PAR -/

theorem encStep_next {s t : State} (h : encStep s = .next t) :
    t = s ∨
    (s.enc.obuf = none ∧ s.enc.phase = .ckHi ∧ t = s.setEnc s.enc.emitHigh) ∨
    (s.enc.obuf = none ∧ s.enc.phase = .ckLo ∧ t = s.setEnc s.enc.emitLow) ∨
    (s.enc.obuf = none ∧ s.enc.phase = .drain ∧ s.full = false ∧
      t = (s.setEnc Enc.reset).respond (.encDone s.enc.len)) := by
  unfold encStep at h
  split at h
  · exact .inl (notEnabled_next h)
  · rename_i hb
    split at h
    · exact .inl (notEnabled_next h)
    · exact .inl (notEnabled_next h)
    · simp only [Host.Outcome.next.injEq] at h; exact .inr (.inl ⟨hb, ‹_›, h.symm⟩)
    · simp only [Host.Outcome.next.injEq] at h; exact .inr (.inr (.inl ⟨hb, ‹_›, h.symm⟩))
    · split at h
      · exact .inl (notEnabled_next h)
      · simp only [Host.Outcome.next.injEq] at h
        exact .inr (.inr (.inr ⟨hb, ‹_›, Bool.eq_false_of_not_eq_true ‹_›, h.symm⟩))

theorem txStep_next {a : TxAnswer} {s t : State} (h : txStep a s = .next t) :
    t = s ∨
    (∃ b, a = .accept ∧ s.enc.obuf = some b ∧ t = (s.sendByte b).setEnc { s.enc with obuf := none }) ∨
    (∃ b sent, a = .reject ∧ s.enc.obuf = some b ∧
      emitted s.enc.phase s.enc.len.toNat s.enc.cnt.toNat = some (sent + 1) ∧ s.full = false ∧
      t = (s.setEnc Enc.reset).raise (.transportError .enc (s.enc.len.toNat + 2) sent)) := by
  unfold txStep at h
  split at h
  · exact .inl (notEnabled_next h)
  · rename_i b hb
    split at h
    · simp only [Host.Outcome.next.injEq] at h; exact .inr (.inl ⟨b, rfl, hb, h.symm⟩)
    · split at h
      · split at h
        · exact .inl (notEnabled_next h)
        · simp only [Host.Outcome.next.injEq] at h
          exact .inr (.inr ⟨b, _, rfl, hb, ‹_›, Bool.eq_false_of_not_eq_true ‹_›, h.symm⟩)
      · cases h

theorem parTakes_next {x : RxItem} {rest : List RxItem} {p : Par} {ev? : Option Event} {s t : State}
    (h : parTakes x rest p ev? s = .next t) :
    t = s ∨
    (ev? = none ∧ t = (s.takeItem x rest).setPar p) ∨
    (∃ ev, ev? = some ev ∧ s.full = false ∧ t = ((s.takeItem x rest).setPar p).respond ev) := by
  unfold parTakes at h
  split at h
  · simp only [Host.Outcome.next.injEq] at h; exact .inr (.inl ⟨rfl, h.symm⟩)
  · split at h
    · exact .inl (notEnabled_next h)
    · simp only [Host.Outcome.next.injEq] at h
      exact .inr (.inr ⟨_, rfl, Bool.eq_false_of_not_eq_true ‹_›, h.symm⟩)

/-- PAR takes an item in LEN or in BODY, or the step changes nothing. -/
theorem rxStep_next {s t : State} (h : rxStep s = .next t) :
    t = s ∨
    ∃ x rest m, s.linkRx = x :: rest ∧
      ((s.par.phase = .len ∧ m = s.par.takeLen x) ∨ (s.par.phase = .body ∧ s.par.takeBody x = .ok m)) ∧
      ((m.2 = none ∧ t = (s.takeItem x rest).setPar m.1) ∨
       ∃ ev, m.2 = some ev ∧ s.full = false ∧ t = ((s.takeItem x rest).setPar m.1).respond ev) := by
  unfold rxStep at h
  split at h
  · exact .inl (notEnabled_next h)
  · rename_i x rest hx
    split at h
    · exact .inl (notEnabled_next h)
    · rename_i hp
      rcases parTakes_next h with h | h | h
      · exact .inl h
      · exact .inr ⟨x, rest, _, hx, .inl ⟨hp, rfl⟩, .inl h⟩
      · exact .inr ⟨x, rest, _, hx, .inl ⟨hp, rfl⟩, .inr h⟩
    · rename_i hp
      split at h
      · rename_i m hm
        rcases parTakes_next h with h | h | h
        · exact .inl h
        · exact .inr ⟨x, rest, m, hx, .inr ⟨hp, hm⟩, .inl h⟩
        · exact .inr ⟨x, rest, m, hx, .inr ⟨hp, hm⟩, .inr h⟩
      · cases h

/-! ## The commands -/

theorem execEncStart_next {n : Byte} {s t : State} (h : execEncStart n s = .next t) :
    (s.enc.phase ≠ .idle ∧ s.full = true ∧ t = s.setPort (some (encStartWord n))) ∨
    (s.enc.phase ≠ .idle ∧ s.full = false ∧
      t = s.raise (.sequenceError .enc (encStartWord n) s.enc.phase.code)) ∨
    (s.enc.phase = .idle ∧ n = 255 ∧ s.full = true ∧ t = s.setPort (some (encStartWord n))) ∨
    (s.enc.phase = .idle ∧ n = 255 ∧ s.full = false ∧ t = s.raise (.frameTooLarge n)) ∨
    (s.enc.phase = .idle ∧ n ≠ 255 ∧ t = s.setEnc (Enc.start n)) := by
  unfold execEncStart at h
  split at h
  · rcases raiseOrHold_next h with ⟨h1, h2⟩ | ⟨h1, h2⟩
    · exact .inl ⟨‹_›, h1, h2⟩
    · exact .inr (.inl ⟨‹_›, h1, h2⟩)
  · rename_i hp
    have hp : s.enc.phase = .idle := by simpa using hp
    split at h
    · have hn : n = 255 := BitVec.eq_of_toNat_eq (by have := n.isLt; simp; omega)
      rcases raiseOrHold_next h with ⟨h1, h2⟩ | ⟨h1, h2⟩
      · exact .inr (.inr (.inl ⟨hp, hn, h1, h2⟩))
      · exact .inr (.inr (.inr (.inl ⟨hp, hn, h1, h2⟩)))
    · rename_i hn
      have hn : n ≠ 255 := by rintro rfl; simp at hn
      simp only [Host.Outcome.next.injEq] at h
      exact .inr (.inr (.inr (.inr ⟨hp, hn, h.symm⟩)))

theorem execEncPush_next {b : Byte} {s t : State} (h : execEncPush b s = .next t) :
    (s.enc.phase ≠ .payload ∧ s.full = true ∧ t = s.setPort (some (encPushWord b))) ∨
    (s.enc.phase ≠ .payload ∧ s.full = false ∧
      t = s.raise (.sequenceError .enc (encPushWord b) s.enc.phase.code)) ∨
    (s.enc.phase = .payload ∧ s.enc.obuf ≠ none ∧ t = s.setPort (some (encPushWord b))) ∨
    (s.enc.phase = .payload ∧ s.enc.obuf = none ∧ t = s.setEnc (s.enc.push b)) := by
  unfold execEncPush at h
  split at h
  · rcases raiseOrHold_next h with ⟨h1, h2⟩ | ⟨h1, h2⟩
    · exact .inl ⟨‹_›, h1, h2⟩
    · exact .inr (.inl ⟨‹_›, h1, h2⟩)
  · rename_i hp
    have hp : s.enc.phase = .payload := by simpa using hp
    split at h
    · rename_i c hc; exact .inr (.inr (.inl ⟨hp, by simp [hc], hold_next h⟩))
    · rename_i hc
      simp only [Host.Outcome.next.injEq] at h
      exact .inr (.inr (.inr ⟨hp, hc, h.symm⟩))

theorem execParStart_next {s t : State} (h : execParStart s = .next t) :
    (s.par.phase ≠ .idle ∧ s.full = true ∧ t = s.setPort (some parStartWord)) ∨
    (s.par.phase ≠ .idle ∧ s.full = false ∧
      t = s.raise (.sequenceError .par parStartWord s.par.phase.code)) ∨
    (s.par.phase = .idle ∧ t = s.setPar { s.par with phase := .len }) := by
  unfold execParStart at h
  split at h
  · rcases raiseOrHold_next h with ⟨h1, h2⟩ | ⟨h1, h2⟩
    · exact .inl ⟨‹_›, h1, h2⟩
    · exact .inr (.inl ⟨‹_›, h1, h2⟩)
  · simp only [Host.Outcome.next.injEq] at h
    exact .inr (.inr ⟨Decidable.not_not.mp ‹_›, h.symm⟩)

theorem hostSends_next {p : List Byte} {s t : State} (h : hostSends p s = .next t) :
    t = s.setHostq ((sendWords p).map issueWord ++ s.hostq) := by
  simp only [hostSends, Host.Outcome.next.injEq] at h; exact h.symm

/-- Running a code is running the instruction it decodes to. -/
theorem runCode_of_decode {c : Code} {i : Instr} (h : decode c = .ok i) (s : State) : runCode c s = exec i s := by
  simp [runCode, h]

/-- Running an illegal word raises IllegalCommand (R192). -/
theorem runCode_of_illegal {w : Word} {r : DecodeReject} (h : decode (.cmd w) = .error r) (s : State) :
    runCode (.cmd w) s = raiseIllegal w s := by
  simp [runCode, h]

/-! ## Steps and runs -/

/-- With a chosen turn at the head of `turns`, a step fires it. -/
theorem step_of_cons {s : State} {t : Turn} {ts : List Turn} (h : s.turns = t :: ts) :
    step s = fire t { s with turns := ts } := by
  rw [step, State.nextTurn_of_cons h, State.dropTurn_of_cons h]

@[simp] theorem run_zero (s : State) : run 0 s = .next s := rfl

theorem run_succ (n : Nat) {s s' : State} (h : step s = .next s') : run (n + 1) s = run n s' := by
  rw [run, h]

/-- A run goes on from where its first part ended. -/
theorem run_add (m : Nat) : ∀ (n : Nat) {s t : State}, run n s = .next t → run (n + m) s = run m t
  | 0, s, t, h => by cases h; simp
  | n + 1, s, t, h => by
    rw [Nat.add_right_comm]
    cases hs : step s with
    | next s' => rw [run_succ n hs] at h; rw [run_succ _ hs]; exact run_add m n h
    | fault f => rw [run, hs] at h; cases h
    | refused r => rw [run, hs] at h; cases h

/-- The HOST takes nothing of its script, issues a code on a free port, pops, or resets. -/
theorem hostStep_next {s t : State} (h : hostStep s = .next t) :
    t = s ∨
    (∃ c later, s.hostq = .issue c :: later ∧ s.port = none ∧ runCode c (s.setHostq later) = .next t) ∨
    (∃ a later q, s.hostq = a :: later ∧ a ≠ .rst ∧ popStep (s.setHostq q) = .next t) ∨
    (∃ later, s.hostq = .rst :: later ∧ t = (s.setHostq later).rst) := by
  unfold hostStep at h
  split at h
  · exact .inl (notEnabled_next h)
  · split at h
    · exact .inl (notEnabled_next h)
    · exact .inr (.inl ⟨_, _, ‹_›, ‹_›, h⟩)
  · split at h
    · exact .inl (notEnabled_next h)
    · exact .inr (.inr (.inl ⟨_, _, _, ‹_›, by simp, h⟩))
  · simp only [Host.Outcome.next.injEq] at h; exact .inr (.inr (.inr ⟨_, ‹_›, h.symm⟩))
  · split at h
    · exact .inl (notEnabled_next h)
    · split at h
      · exact .inr (.inr (.inl ⟨_, _, _, ‹_›, by simp, h⟩))
      · exact .inr (.inr (.inl ⟨_, _, s.hostq, ‹_›, by simp, h⟩))

/-- The first of several moves answers a next state, and the others go on from there. -/
theorem applyMoves_cons_next {m : Move} {ms : List Move} {s t : State} (h : applyMoves (m :: ms) s = .next t) :
    ∃ s', m.apply s = .next s' ∧ applyMoves ms s' = .next t := by
  unfold applyMoves at h
  split at h
  · exact ⟨_, ‹_›, h⟩
  · cases h
  · cases h

/-! ## Accumulators (R103) -/

@[simp] theorem sum16_nil : sum16 [] = 0 := rfl

theorem foldl_accumulate (acc : Word) (l : List Byte) : l.foldl accumulate acc = acc + sum16 l := by
  induction l generalizing acc with
  | nil => simp
  | cons b l ih =>
    have hb : sum16 (b :: l) = accumulate 0 b + sum16 l := ih (accumulate 0 b)
    rw [List.foldl_cons, ih, hb, accumulate, accumulate, zero_add, BitVec.add_assoc]

theorem sum16_append (a b : List Byte) : sum16 (a ++ b) = sum16 a + sum16 b := by
  rw [sum16, List.foldl_append, foldl_accumulate]; rfl

/-- An accumulator that takes one byte more holds the sum of one byte more (R103). -/
theorem accumulate_sum16 (l : List Byte) (b : Byte) : accumulate (sum16 l) b = sum16 (l ++ [b]) := by
  rw [sum16_append]; simp [accumulate, sum16]

end Sys2Proof.Machine
end

