-- ==== Sys2Proof/Laws/PerInstr.lean ====
section
/-! SUPPORT. One lemma for each instruction: its encoding is a well-formed code (R72 to R76, R89). -/

namespace Sys2Proof.Laws.EncodeWellFormed

/-- The encoder writes a legal command word, or an opcode of the catalog. -/
def Statement (i : Instr) : Prop := (encode i).wellFormed = true

theorem nop : Statement .nop := (by decide : (encode .nop).wellFormed = true)
theorem ckClr : Statement .ckClr := (by decide : (encode .ckClr).wellFormed = true)
theorem ckAdd (b : Byte) : Statement (.ckAdd b) := (decodeWord_ckAddWord b).1
theorem ckRd : Statement .ckRd := (by decide : (encode .ckRd).wellFormed = true)
theorem encStart (n : Byte) : Statement (.encStart n) := (decodeWord_encStartWord n).1
theorem encPush (b : Byte) : Statement (.encPush b) := (decodeWord_encPushWord b).1
theorem parStart : Statement .parStart := (by decide : (encode .parStart).wellFormed = true)
theorem statRd : Statement .statRd := (by decide : (encode .statRd).wellFormed = true)
theorem aimOn : Statement .aimOn := (by decide : (encode .aimOn).wellFormed = true)
theorem aimOff : Statement .aimOff := (by decide : (encode .aimOff).wellFormed = true)
theorem illuminationOn : Statement .illuminationOn := (by decide : (encode .illuminationOn).wellFormed = true)
theorem illuminationOff : Statement .illuminationOff := (by decide : (encode .illuminationOff).wellFormed = true)
theorem capabilitiesRequest : Statement .capabilitiesRequest := (by decide : (encode .capabilitiesRequest).wellFormed = true)

end Sys2Proof.Laws.EncodeWellFormed
end

