-- ==== Sys2Proof/Machine/Assembler.lean ====
section
/-! DEFINITION. The HOST's assembler: the text of R86, one line a command, a host action or a pseudo-instruction of R87, read
into the actions of the HOST's script. Text is a list of characters. -/

namespace Sys2Proof.Machine

/-- The value of a decimal digit. -/
def decDigit (c : Char) : Option Nat := if '0' ≤ c ∧ c ≤ '9' then some (c.toNat - '0'.toNat) else none

/-- The value of a hexadecimal digit. R86 shows capital letters and R10 small ones; both are read (DEDUCED, log entry 12). -/
def hexDigit (c : Char) : Option Nat :=
  if 'a' ≤ c ∧ c ≤ 'f' then some (c.toNat - 'a'.toNat + 10)
  else if 'A' ≤ c ∧ c ≤ 'F' then some (c.toNat - 'A'.toNat + 10)
  else decDigit c

/-- The number whose digits follow those already read into `acc`. -/
def readDigits (base : Nat) (digit : Char → Option Nat) (acc : Nat) : List Char → Option Nat
  | [] => some acc
  | c :: cs =>
    match digit c with
    | some d => readDigits base digit (acc * base + d) cs
    | none => none

/-- An operand: an integer in decimal, or in hexadecimal with `0x` (R86). -/
def readNumber : List Char → Option Nat
  | [] => none
  | '0' :: 'x' :: d :: ds => readDigits 16 hexDigit 0 (d :: ds)
  | d :: ds => readDigits 10 decDigit 0 (d :: ds)

/-- A byte in the hex-dump notation of R10: two hexadecimal digits. -/
def readByte : List Char → Option Byte
  | [h, l] => (readDigits 16 hexDigit 0 [h, l]).map (BitVec.ofNat 8)
  | _ => none

/-- Bytes in the hex-dump notation of R10, one word each. -/
def readBytes : List (List Char) → Option (List Byte)
  | [] => some []
  | w :: ws =>
    match readByte w, readBytes ws with
    | some b, some bs => some (b :: bs)
    | _, _ => none

/-- The words of a line that follow the part `cur` of a word (in reverse) already read. -/
def splitWords (cur : List Char) : List Char → List (List Char)
  | [] => if cur.isEmpty then [] else [cur.reverse]
  | c :: cs =>
    if c = ' ' then (if cur.isEmpty then splitWords [] cs else cur.reverse :: splitWords [] cs)
    else splitWords (c :: cur) cs

/-- The lines of a text, the first of which continues `cur` (in reverse). -/
def splitLines (cur : List Char) : List Char → List (List Char)
  | [] => [cur.reverse]
  | c :: cs => if c = '\n' then cur.reverse :: splitLines [] cs else splitLines (c :: cur) cs

/-- `;` starts a comment (R86). -/
def stripComment (line : List Char) : List Char := line.takeWhile (· ≠ ';')

/-- The mnemonics of R72. -/
def mnemonicNames : List (List Char × Mnemonic) :=
  [("NOP".toList, .NOP), ("CK_CLR".toList, .CK_CLR), ("CK_ADD".toList, .CK_ADD), ("CK_RD".toList, .CK_RD),
   ("ENC_START".toList, .ENC_START), ("ENC_PUSH".toList, .ENC_PUSH), ("PAR_START".toList, .PAR_START),
   ("STAT_RD".toList, .STAT_RD)]

/-- The event kinds of R30, as `WAIT ev` names them. -/
def eventNames : List (List Char × EventKind) :=
  [("CKVAL".toList, .ckval), ("STATUS".toList, .status), ("ENC_DONE".toList, .encDone), ("FRAME".toList, .frame),
   ("ERR".toList, .err)]

/-- A host action or a pseudo-instruction (R86, R87). -/
def readHostLine (word : List Char) (args : List (List Char)) : Option (List HostAct) :=
  if word = "POP".toList ∧ args = [] then some [.pop]
  else if word = "RST".toList ∧ args = [] then some [.rst]
  else if word = "RECV".toList ∧ args = [] then some pseudoRecv
  else if word = "WAIT".toList then
    match args with
    | [a] => (eventNames.lookup a).map fun k => [.wait k]
    | _ => none
  else if word = "CHECKSUM".toList then (readBytes args).map pseudoChecksum
  else if word = "SEND".toList then (readBytes args).bind pseudoSend
  else if word = "TRANSACT".toList then (readBytes args).bind pseudoTransact
  else none

/-- One line: nothing, a command (R86), or a host action or pseudo-instruction. -/
def readLine (line : List Char) : Option (List HostAct) :=
  match splitWords [] (stripComment line) with
  | [] => some []
  | word :: args =>
    match mnemonicNames.lookup word with
    | none => readHostLine word args
    | some m =>
      match args with
      | [] => (assemble ⟨m, none⟩).map fun w => [issueWord w]
      | [a] => (readNumber a).bind fun v => (assemble ⟨m, some v⟩).map fun w => [issueWord w]
      | _ => none

/-- A program, one command per line (R86), as the HOST's script; nothing if some line is ill-formed. -/
def readProgram (text : List Char) : Option (List HostAct) := readLines (splitLines [] text)
where
  readLines : List (List Char) → Option (List HostAct)
    | [] => some []
    | l :: ls =>
      match readLine l, readLines ls with
      | some acts, some more => some (acts ++ more)
      | _, _ => none

end Sys2Proof.Machine
end

