-- ==== Sys2Proof/Tests/Slice0.lean ====
section
/-! SUPPORT. Tests with results taken from the spec's own vectors (95_test_vectors.md, named L1-, L2- below) and examples, and
for every statement with hypotheses a witness that meets them. -/

namespace Sys2Proof.Tests

open Sys2Proof.Machine

/-! ## Helpers -/

/-- The next state of an answer, if it is one. -/
def nextOf : Result → Option State
  | .next s => some s
  | .fault _ => none
  | .refused _ => none

/-- What a test looks at in the next state. -/
def seen {α : Type} (r : Result) (f : State → α) : Option α := (nextOf r).map f

/-- The machine after reset with RSPQ_DEPTH = 4, as the vectors assume. -/
def base : State := { State.reset with rspqDepth := .atLeastOne 3 }

/-- RSPQ_DEPTH = 1 and RSPQ full (L2-Q-2). -/
def fullQ : State := { base with rspqDepth := .atLeastOne 0, rspq := [.ckval 0xFFFF] }

/-- ENC in the given phase of the frame `04 c5 04 00 ff 33`, with the wire as that phase leaves it. -/
def encAt (s : State) (phase : EncPhase) (cnt : Byte) (acc : Word) (obuf : Option Byte) (tx : List Byte) : State :=
  { s with enc := { phase := phase, len := 4, cnt := cnt, acc := acc, obuf := obuf }, txlog := tx }

/-- PAR in BODY after the length byte `04` and the bytes `buf`. -/
def parAt (s : State) (rem : BitVec 9) (acc : Word) (buf : List Byte) : State :=
  { s with par := { phase := .body, len := 4, rem := rem, acc := acc, buf := buf }
           rxlog := ((0x04 : Byte) :: buf).map .byte }

/-- PAR armed, waiting for the length byte. -/
def parLen (s : State) : State := { s with par := { Par.reset with phase := .len } }

/-! ## WellFormed refuses what is ill-formed -/

/-- R76: OP 0x9 is reserved. -/
theorem test_wf_reserved_op : (Code.cmd 0x9000).wellFormed = false := by decide

/-- R74: `0x2100` is CK_ADD with RSV = 1. -/
theorem test_wf_rsv : (Code.cmd 0x2100).wellFormed = false := by decide

/-- R75: `0x1001` is CK_CLR with IMM8 = 1. -/
theorem test_wf_imm : (Code.cmd 0x1001).wellFormed = false := by decide

/-- R180: 0x99 is no opcode of the catalog. -/
theorem test_wf_catalog : (Code.frame 0x99).wellFormed = false ∧ (Code.frame 0xD3).wellFormed = true := by decide

/-- R86: an operand is at most 255, is needed by ENC_PUSH, and is not allowed on CK_CLR. -/
theorem test_wf_line : AsmLine.wellFormed ⟨.CK_ADD, some 256⟩ = false ∧ AsmLine.wellFormed ⟨.ENC_PUSH, none⟩ = false ∧
    AsmLine.wellFormed ⟨.CK_CLR, some 0⟩ = false := by decide

/-! ## Decoding, by words written out from R71, R72 and R181 to R185 -/

theorem test_decode_nop : decodeWord 0b0000000000000000 = .ok .nop := by decide
theorem test_decode_ckClr : decodeWord 0b0001000000000000 = .ok .ckClr := by decide
theorem test_decode_ckAdd : decodeWord 0b0010000010000001 = .ok (.ckAdd 0x81) := by decide
theorem test_decode_ckRd : decodeWord 0b0011000000000000 = .ok .ckRd := by decide
theorem test_decode_encStart : decodeWord 0b0100000011111110 = .ok (.encStart 254) := by decide
theorem test_decode_encPush : decodeWord 0b0101000011000101 = .ok (.encPush 0xC5) := by decide
theorem test_decode_parStart : decodeWord 0b0110000000000000 = .ok .parStart := by decide
theorem test_decode_statRd : decodeWord 0b0111000000000000 = .ok .statRd := by decide
theorem test_decode_aimOn : decode (.frame 0b11000101) = .ok .aimOn := by decide
theorem test_decode_aimOff : decode (.frame 0b11000100) = .ok .aimOff := by decide
theorem test_decode_illuminationOn : decode (.frame 0b11000001) = .ok .illuminationOn := by decide
theorem test_decode_illuminationOff : decode (.frame 0b11000000) = .ok .illuminationOff := by decide
theorem test_decode_capabilitiesRequest : decode (.frame 0b11010011) = .ok .capabilitiesRequest := by decide

/-- L2-CMD-2, L2-CMD-3, L2-CMD-6, L2-CMD-9, L2-ST-7: illegal words, each rejected by name. -/
theorem test_decode_illegal :
    decodeWord 0x0001 = .error .immNotZero ∧ decodeWord 0x0100 = .error .rsvNotZero ∧
    decodeWord 0x2100 = .error .rsvNotZero ∧ decodeWord 0xFFFF = .error .reservedOp ∧
    decodeWord 0x7080 = .error .immNotZero ∧ decode (.frame 0x99) = .error .notInCatalog := by decide

/-- The words of the program P2 (`4003 50C5 5004 5000 6000`) as the assembler gives them (R86). -/
theorem test_assemble_P2 :
    [assemble ⟨.ENC_START, some 3⟩, assemble ⟨.ENC_PUSH, some 0xC5⟩, assemble ⟨.ENC_PUSH, some 4⟩,
      assemble ⟨.ENC_PUSH, some 0⟩, assemble ⟨.PAR_START, none⟩] =
    [some 0x4003, some 0x50C5, some 0x5004, some 0x5000, some 0x6000] := by decide

/-- R87: `CHECKSUM 04 c5` and `TRANSACT c5 04 00` expand to the commands the spec shows. -/
theorem test_pseudo :
    pseudoChecksum [0x04, 0xC5] = [0x1000, 0x2004, 0x20C5, 0x3000].map issueWord ∧
    pseudoTransact [0xC5, 0x04, 0x00] = some ([0x4003, 0x50C5, 0x5004, 0x5000].map issueWord ++
      [.wait .encDone, issueWord 0x6000, .wait .frame]) := by decide

/-- R86: one command a line, `;` starts a comment, an operand in decimal or hexadecimal; R87: SEND. -/
theorem test_program_text :
    readProgram "CK_CLR ; start\nCK_ADD 0xC5\nENC_START 3\nSEND c5 04 00\nWAIT ENC_DONE\nPOP".toList =
      some ([0x1000, 0x20C5, 0x4003, 0x4003, 0x50C5, 0x5004, 0x5000].map issueWord ++ [.wait .encDone, .pop]) := by decide

/-- R86: lines the assembler refuses. -/
theorem test_bad_lines : readLine "CK_ADD 256".toList = none ∧ readLine "CK_CLR 0".toList = none ∧
    readLine "ENC_PUSH".toList = none ∧ readLine "HALT".toList = none := by decide

/-! ## The pure functions -/

/-- L2-CK-1, L2-CK-4, L2-CK-6, L1-1. -/
theorem test_checksum : checksum [] = 0x0000 ∧ checksum [0xFF] = 0xFF01 ∧ checksum [1, 2, 3, 4] = 0xFFF6 ∧
    checksum [0x04, 0xC5, 0x04, 0x00] = 0xFF33 := by decide

/-- L2-ENC-1, L2-ENC-2, L2-ENC-4. -/
theorem test_compose : (compose []).toOption = some [0x01, 0xFF, 0xFF] ∧
    (compose [0x00]).toOption = some [0x02, 0x00, 0xFF, 0xFE] ∧
    (compose [1, 2, 3, 4]).toOption = some [0x05, 1, 2, 3, 4, 0xFF, 0xF1] := by decide

/-- L2-PAR-3 and L2-PAR-8. -/
theorem test_parse_whole :
    parse ([0x02, 0x55, 0xFF, 0xA9].map .byte) = some (.frame 0x02 [0x55] 0xFFA9, []) ∧
    parse ([0x03, 0xFF, 0xFF, 0xFD, 0xFE].map .byte) = some (.err (.checksumMismatch 0xFDFF 0xFDFE), []) := by decide

/-- L2-PAR-5, L2-PAR-6, L2-PAR-7. -/
theorem test_parse_errors :
    parse [.byte 0] = some (.err (.malformedFrame 0), []) ∧
    parse [.endOfStream] = some (.err (.transportError .par 1 0), []) ∧
    parse [.byte 4, .byte 0xC5, .byte 4, .endOfStream] = some (.err (.transportError .par 5 2), []) := by decide

/-! ## One step of each instruction and each step kind -/

/-- L2-CMD-1: NOP does nothing, even with RSPQ full. -/
theorem test_nop : nextOf (exec .nop fullQ) = some fullQ := by decide

/-- L2-CK-16. -/
theorem test_ckClr : seen (exec .ckClr { base with ck := ⟨0x00CD⟩ }) (fun t => (t.ck.acc, t.rspq)) =
    some (0x0000, []) := by decide

/-- L2-CK-12: the sum wraps. -/
theorem test_ckAdd_wraps : seen (exec (.ckAdd 0x01) { base with ck := ⟨0xFFFF⟩ }) (·.ck.acc) = some 0x0000 := by decide

/-- L2-CK-13: the byte is not sign-extended. -/
theorem test_ckAdd_unsigned : seen (exec (.ckAdd 0xFF) { base with ck := ⟨0xFF80⟩ }) (·.ck.acc) = some 0x007F := by decide

/-- L2-CK-14. -/
theorem test_ckRd : seen (exec .ckRd { base with ck := ⟨0x8000⟩ }) (fun t => (t.rspq, t.ck.acc)) =
    some ([.ckval 0x8000], 0x8000) := by decide

/-- L2-Q-1: the second CK_RD holds. -/
theorem test_ckRd_holds : seen (exec .ckRd fullQ) (fun t => (t.port, t.rspq)) =
    some (some 0x3000, [.ckval 0xFFFF]) := by decide

/-- L2-ENC-6. -/
theorem test_encStart : seen (exec (.encStart 3) base) (·.enc) =
    some { phase := .payload, len := 4, cnt := 3, acc := 0x0004, obuf := some 0x04 } := by decide

/-- L2-ENC-10: the phase is checked before the size. -/
theorem test_encStart_order : seen (exec (.encStart 255) (encAt base .payload 3 4 (some 4) [])) (·.rspq) =
    some [.err (.sequenceError .enc 0x40FF 1)] := by decide

/-- L2-ENC-14. -/
theorem test_encPush : seen (exec (.encPush 0x00) (encAt base .payload 1 0x00CD none [0x04, 0xC5, 0x04])) (·.enc) =
    some { phase := .ckHi, len := 4, cnt := 0, acc := 0x00CD, obuf := some 0x00 } := by decide

/-- L2-ENC-13: the push holds behind the length byte. -/
theorem test_encPush_holds : seen (exec (.encPush 0xC5) (encAt base .payload 3 4 (some 4) [])) (fun t => (t.port, t.enc.cnt)) =
    some (some 0x50C5, 3) := by decide

/-- L2-ENC-15. -/
theorem test_enc_ckHi : seen (fire .enc (encAt base .ckHi 0 0x00CD none [])) (fun t => (t.enc.obuf, t.enc.phase)) =
    some (some 0xFF, .ckLo) := by decide

/-- L2-ENC-16. -/
theorem test_enc_ckLo : seen (fire .enc (encAt base .ckLo 0 0x00CD none [])) (fun t => (t.enc.obuf, t.enc.phase)) =
    some (some 0x33, .drain) := by decide

/-- L2-ENC-17. -/
theorem test_enc_drain : seen (fire .enc (encAt base .drain 0 0x00CD none [])) (fun t => (t.enc, t.rspq)) =
    some (Enc.reset, [.encDone 4]) := by decide

/-- P2, step 2. -/
theorem test_tx_accept : seen (fire (.tx .accept) (encAt base .payload 3 4 (some 4) [])) (fun t => (t.txlog, t.enc.obuf)) =
    some ([0x04], none) := by decide

/-- L2-ENC-19: the frame is abandoned after one byte. -/
theorem test_tx_reject : seen (fire (.tx .reject) (encAt base .payload 2 0x00C9 (some 0xC5) [0x04]))
      (fun t => (t.rspq, t.txlog, t.enc)) =
    some ([.err (.transportError .enc 6 1)], [0x04], Enc.reset) := by decide

/-- R158: PAR_START arms PAR. -/
theorem test_parStart : seen (exec .parStart base) (fun t => (t.par.phase, t.rspq)) = some (.len, []) := by decide

/-- L2-PAR-12: a second PAR_START changes nothing of the frame in progress. -/
theorem test_parStart_busy : seen (exec .parStart (parAt base 4 0x00C9 [0xC5])) (fun t => (t.rspq, t.par.buf)) =
    some ([.err (.sequenceError .par 0x6000 2)], [0xC5]) := by decide

/-- R159's example. -/
theorem test_rx_len : seen (fire .rx { parLen base with linkRx := [.byte 4] }) (·.par) =
    some { phase := .body, len := 4, rem := 5, acc := 0x0004, buf := [] } := by decide

/-- R160's example: the checksum's high byte is not added. -/
theorem test_rx_body : seen (fire .rx { parAt base 2 0x00CD [0xC5, 0x04, 0x00] with linkRx := [.byte 0xFF] }) (·.par) =
    some { phase := .body, len := 4, rem := 1, acc := 0x00CD, buf := [0xC5, 0x04, 0x00, 0xFF] } := by decide

/-- R161's example. -/
theorem test_rx_last : seen (fire .rx { parAt base 1 0x00CD [0xC5, 0x04, 0x00, 0xFF] with linkRx := [.byte 0x33] })
    (fun t => (t.rspq, t.par)) = some ([.frame 4 [0xC5, 0x04, 0x00] 0xFF33], Par.reset) := by decide

/-- R153: with length byte 255 the body has 256 bytes, which 8 bits cannot count. -/
theorem test_rx_len_255 : seen (fire .rx { parLen base with linkRx := [.byte 255] }) (·.par.rem) = some 256 := by decide

/-- L2-ST-2. -/
theorem test_statRd : seen (exec .statRd (parLen (encAt base .payload 3 4 (some 4) []))) (·.rspq) =
    some [.status 0x0019] := by decide

/-- L2-ST-3 and L2-ST-6. -/
theorem test_status_word : statusWord { Enc.reset with phase := .ckHi, obuf := some 1 } Par.reset = 0x000A ∧
    statusWord Enc.reset { Par.reset with phase := .body } = 0x0020 := by decide

/-- R181: AIM_ON is sent as `4003 50C5 5004 5000`. -/
theorem test_aimOn : seen (exec .aimOn base) (·.hostq) = some ([0x4003, 0x50C5, 0x5004, 0x5000].map issueWord) := by decide

/-- R182. -/
theorem test_aimOff : seen (exec .aimOff base) (·.hostq) = some ([0x4003, 0x50C4, 0x5004, 0x5000].map issueWord) := by decide

/-- R183. -/
theorem test_illuminationOn : seen (exec .illuminationOn base) (·.hostq) =
    some ([0x4003, 0x50C1, 0x5004, 0x5000].map issueWord) := by decide

/-- R184. -/
theorem test_illuminationOff : seen (exec .illuminationOff base) (·.hostq) =
    some ([0x4003, 0x50C0, 0x5004, 0x5000].map issueWord) := by decide

/-- R185. -/
theorem test_capabilitiesRequest : seen (exec .capabilitiesRequest base) (·.hostq) =
    some ([0x4003, 0x50D3, 0x5004, 0x5000].map issueWord) := by decide

/-- L2-CMD-10: an illegal word raises IllegalCommand alone, whatever ENC does. -/
theorem test_illegal : seen (runCode (.cmd 0x9000) (encAt base .payload 3 4 (some 4) [])) (·.rspq) =
    some [.err (.illegalCommand 0x9000)] := by decide

/-- L2-Q-3: with RSPQ full the illegal word holds. -/
theorem test_illegal_holds : seen (runCode (.cmd 0x9000) fullQ) (fun t => (t.port, t.rspq)) =
    some (some 0x9000, [.ckval 0xFFFF]) := by decide

/-- P5, step 5. -/
theorem test_pop : seen (fire .pop fullQ) (fun t => (t.popped, t.rspq)) = some ([.ckval 0xFFFF], []) := by decide

/-- L2-RST-2 and L2-RST-5: the byte in ENC.obuf and the held word are lost; TXLOG stays. -/
theorem test_rst : seen (fire .rst { encAt base .payload 2 0x00C9 (some 0xC5) [0x04] with port := some 0x5004 })
    (fun t => (t.enc, t.port, t.txlog, t.rspq)) = some (Enc.reset, none, [0x04], []) := by decide

/-- A word placed where the next step takes it is run by the first step after reset (log entry 4). -/
theorem test_fetch_word : seen (step (State.reset.withFetchWord 16 0x2005)) (·.ck.acc) = some 0x0005 := by decide

/-- The same for a catalog row, which has 8 bits. -/
theorem test_fetch_catalog : seen (step (State.reset.withFetchWord 8 0xC4)) (·.hostq.length) = some 4 := by decide

/-! ## Witnesses: states that meet the hypotheses of the statements, clause by clause -/

theorem test_meets_OpSelectsTheInstruction : decodeWord 0x0000 = .ok .nop ∧ decodeWord 0x70FF ≠ .ok .statRd ∧
    decodeWord 0x7000 = .ok .statRd := by decide

theorem test_meets_EncodeOfDecodeIsTheCode : decode (.cmd 0x50FF) = .ok (.encPush 255) ∧ decode (.frame 0xC0) = .ok .illuminationOff := by
  decide

theorem test_meets_AssembledLineDecodesToItself : AsmLine.wellFormed ⟨.CK_ADD, some 255⟩ = true ∧
    AsmLine.wellFormed ⟨.NOP, none⟩ = true := by decide

theorem test_meets_StepRunsTheDecodedInstruction :
    (∃ s : State, s.turns = .host :: [] ∧ s.port = none ∧ s.hostq = .issue (.cmd 0x2001) :: [] ∧
      decode (.cmd 0x2001) = .ok (.ckAdd 1)) ∧
    (∃ s : State, s.turns = .port :: [] ∧ s.port = some 0x3000 ∧ decodeWord 0x3000 = .ok .ckRd) :=
  ⟨⟨{ base with turns := [.host], hostq := [.issue (.cmd 0x2001)] }, by decide⟩,
   ⟨{ base with turns := [.port], port := some 0x3000 }, by decide⟩⟩

theorem test_meets_IllegalWordRaisesIllegalCommand :
    8 ≤ (opField 0x8000).toNat ∧ rsvField 0x0100 ≠ 0 ∧ (opField 0x0001 ∈ [0x0#4, 0x1#4, 0x3#4, 0x6#4, 0x7#4] ∧
      immField 0x0001 ≠ 0) ∧ base.full = false ∧ fullQ.full = true := by decide

theorem test_meets_NopLeavesTheStateUnchanged : opField 0x0001 = 0x0 ∧ (0x0001 : Word) ≠ 0x0000 ∧ opField 0x0F00 = 0x0 := by decide

theorem test_meets_StatRdReportsTheStatusWord : opField 0x7001 = 0x7 ∧ (0x7001 : Word) ≠ 0x7000 := by decide

theorem test_meets_PopHandsOverTheHeadEvent : fullQ.rspq = .ckval 0xFFFF :: [] ∧ base.rspq = [] := by decide

theorem test_meets_HostActionsPopResetAndWait :
    ({ base with hostq := [.rst, .pop] } : State).hostq = .rst :: [.pop] ∧
    ({ base with hostq := [.pop] } : State).hostq = .pop :: [] ∧ ({ base with hostq := [.pop] } : State).rspq = [] ∧
    ({ fullQ with hostq := [.pop] } : State).hostq = .pop :: [] ∧
    ({ fullQ with hostq := [.pop] } : State).rspq = .ckval 0xFFFF :: [] ∧
    ({ base with hostq := [.wait .frame] } : State).hostq = .wait .frame :: [] ∧
    ({ base with hostq := [.wait .frame] } : State).rspq = [] ∧
    (∃ s : State, s.hostq = .wait .ckval :: [] ∧ s.rspq = .ckval 0xFFFF :: [] ∧ (Event.ckval 0xFFFF).kind = .ckval) ∧
    (∃ s : State, s.hostq = .wait .frame :: [] ∧ s.rspq = .err (.malformedFrame 0) :: []) ∧
    (∃ s : State, s.hostq = .wait .frame :: [] ∧ s.rspq = .ckval 0xFFFF :: [] ∧ (Event.ckval 0xFFFF).kind ≠ .frame ∧
      ∀ e, Event.ckval 0xFFFF ≠ .err e) :=
  ⟨by decide, by decide, by decide, by decide, by decide, by decide, by decide,
   ⟨{ fullQ with hostq := [.wait .ckval] }, by decide⟩,
   ⟨{ base with hostq := [.wait .frame], rspq := [.err (.malformedFrame 0)] }, by decide⟩,
   ⟨{ fullQ with hostq := [.wait .frame] }, by decide, by decide, by decide, by simp⟩⟩

theorem test_meets_CommandsHoldExactlyAsR193Says : fullQ.holds (.encStart 255) = true ∧ fullQ.holds (.encStart 254) = false ∧
    (encAt base .payload 3 4 (some 4) []).holds (.encPush 0) = true ∧ fullQ.holds (.ckAdd 1) = false := by decide

theorem test_meets_StepsWaitExactlyWhenNotEnabled :
    base.par.Inv ∧ base.encEnabled = false ∧ base.enc.obuf = none ∧ base.txEnabled .accept = false ∧
    (∃ s : State, s.par.Inv ∧ s.enc.Inv ∧ s.txEnabled .reject = false ∧ s.enc.obuf = some 4) ∧
    (∃ s : State, s.par.Inv ∧ s.txEnabled .accept = true ∧ s.full = true) ∧
    (∃ s : State, s.par.Inv ∧ s.enc.Inv ∧ s.txEnabled .reject = true) ∧
    (encAt base .ckHi 0 0x00CD none []).encEnabled = true ∧ (encAt base .ckHi 0 0x00CD none []).par.Inv ∧
    (∃ s : State, s.par.Inv ∧ s.linkRx = .byte 0 :: [] ∧ s.rxEnabled (.byte 0) = false) ∧
    (∃ s : State, s.par.Inv ∧ s.linkRx = .byte 0 :: [] ∧ s.rxEnabled (.byte 0) = true) ∧
    (∃ s : State, s.par.Inv ∧ s.port = some 0x3000 ∧ s.wordEnabled 0x3000 = false) ∧
    (∃ s : State, s.par.Inv ∧ s.port = some 0x3000 ∧ s.wordEnabled 0x3000 = true) := by
  have h : Par.reset.Inv := by simp [Par.reset, Par.Inv]
  have h' : (parLen base).par.Inv := by simp [parLen, Par.reset, Par.Inv]
  exact ⟨h, by decide, by decide, by decide, ⟨encAt fullQ .payload 3 4 (some 4) [], h, by unfold Enc.Inv; decide, by decide, rfl⟩,
    ⟨encAt fullQ .payload 3 4 (some 4) [], h, by decide, by decide⟩,
    ⟨encAt base .payload 3 4 (some 4) [], h, by unfold Enc.Inv; decide, by decide⟩,
    by decide, h, ⟨{ parLen fullQ with linkRx := [.byte 0] }, h', by decide⟩,
    ⟨{ parLen base with linkRx := [.byte 0] }, h', by decide⟩, ⟨{ fullQ with port := some 0x3000 }, h, by decide⟩,
    ⟨{ base with port := some 0x3000 }, h, by decide⟩⟩

theorem test_meets_CommandsChangeOnlyTheirOwnUnit : (nextOf (exec .ckRd base)).isSome = true ∧
    (nextOf (exec (.encStart 0) base)).isSome = true ∧ (nextOf (exec .aimOff fullQ)).isSome = true := by decide

theorem test_meets_CommandErrorsChangeNoUnit : ∃ t e, runCode (.cmd 0x40FF) base = .next t ∧ t.rspq = base.rspq ++ [.err e] :=
  ⟨_, .frameTooLarge 255, rfl, by decide⟩

theorem test_meets_CkClrClearsTheAccumulator : opField 0x1001 = 0x1 ∧ (0x1001 : Word) ≠ 0x1000 := by decide

theorem test_meets_CkAddAddsTheByte : opField 0x2100 = 0x2 ∧ rsvField 0x2100 ≠ 0 := by decide

theorem test_meets_CkRdReportsTheNegatedSum : opField 0x3001 = 0x3 ∧ (0x3001 : Word) ≠ 0x3000 ∧ base.full = false ∧
    fullQ.full = true := by decide

theorem test_meets_ChecksumLaws : [0x01, 0x02].Perm ([0x02, 0x01] : List Byte) ∧
    (List.replicate 257 (0xFF : Byte)).length ≤ 257 ∧ (List.replicate 255 (0xFF : Byte)).length ≤ 255 :=
  ⟨.swap _ _ _, by rw [List.length_replicate], by rw [List.length_replicate]⟩

theorem test_meets_FrameLaw : frameBytes 0x04 [0xC5, 0x04, 0x00] = 0x04 :: [0xC5, 0x04, 0x00] ++ [0xFF, 0x33] := by decide

/-- After a CK_CLR, and after a reset. -/
theorem test_meets_CkComputesTheChecksum : ∃ ms, Move.command .ckClr ∉ ms ∧ ms = [.command (.ckAdd 4), .pop, .rx, .command .nop] ∧
    (∃ t, applyMoves (.command .ckClr :: ms) base = .next t ∧ t.full = false) ∧
    (∃ t, applyMoves ms fullQ.rst = .next t ∧ t.full = false) :=
  ⟨_, by decide, rfl, ⟨_, rfl, by decide⟩, ⟨_, rfl, by decide⟩⟩

theorem test_meets_ComposeShape : 255 ≤ (List.replicate 255 (0 : Byte)).length ∧ (List.replicate 254 (0 : Byte)).length ≤ 254 := by
  rw [List.length_replicate, List.length_replicate]; decide

theorem test_meets_EncStartBeginsAFrame : opField 0x4100 = 0x4 ∧ rsvField 0x4100 ≠ 0 ∧ base.enc.phase = .idle ∧
    (254 : Byte) ≠ 255 ∧ (0 : Byte) ≠ 255 ∧ base.full = false ∧ fullQ.full = true ∧
    (encAt base .drain 0 0x00CD (some 0x33) []).enc.phase ≠ .idle ∧ (encAt base .drain 0 0x00CD (some 0x33) []).full = false ∧
    (encAt fullQ .payload 3 4 none []).enc.phase ≠ .idle ∧ (encAt fullQ .payload 3 4 none []).full = true := by decide

theorem test_meets_EncPushPassesAPayloadByte : opField 0x5100 = 0x5 ∧ rsvField 0x5100 ≠ 0 ∧
    (encAt base .payload 1 0x00CD none []).enc.phase = .payload ∧ (encAt base .payload 1 0x00CD none []).enc.obuf = none ∧
    (encAt base .payload 3 4 (some 4) []).enc.phase = .payload ∧ (encAt base .payload 3 4 (some 4) []).enc.obuf ≠ none ∧
    base.enc.phase ≠ .payload ∧ base.full = false ∧ fullQ.enc.phase ≠ .payload ∧ fullQ.full = true := by decide

theorem test_meets_EncAppendsTheChecksum :
    (encAt base .ckHi 0 0x00CD none []).enc.phase = .ckHi ∧ (encAt base .ckHi 0 0x00CD none []).enc.obuf = none ∧
    (encAt base .ckLo 0 0x00CD none []).enc.phase = .ckLo ∧ (encAt base .ckLo 0 0x00CD none []).enc.obuf = none ∧
    (encAt base .drain 0 0x00CD none []).enc.phase = .drain ∧ (encAt base .drain 0 0x00CD none []).enc.obuf = none ∧
    (encAt base .drain 0 0x00CD none []).full = false ∧
    (encAt base .ckHi 0 0x00CD (some 0) []).enc.obuf ≠ none ∧ base.enc.phase = .idle ∧
    (encAt base .payload 3 4 none []).enc.phase = .payload ∧
    (encAt fullQ .drain 0 0x00CD none []).enc.phase = .drain ∧ (encAt fullQ .drain 0 0x00CD none []).full = true := by decide

theorem test_meets_TxAcceptMovesTheByteToTheWire : (encAt base .payload 3 4 (some 4) []).enc.obuf = some 4 ∧
    base.enc.obuf = none := by decide

/-- Each of the four phases of R133, with PAYLOAD at both ends of its count. -/
theorem test_meets_TxErrorAbandonsTheFrame : ∀ e ∈ [
      ((encAt base .payload 3 4 (some 4) []).enc, 1), ((encAt base .payload 1 0x00CD (some 4) []).enc, 3),
      ((encAt base .ckHi 0 0x00CD (some 0) []).enc, 4), ((encAt base .ckLo 0 0x00CD (some 0xFF) []).enc, 5),
      ((encAt base .drain 0 0x00CD (some 0x33) []).enc, 6)],
    e.1.Inv ∧ e.1.obuf ≠ none ∧
    ((e.1.phase = .payload ∧ e.2 = 1 + (e.1.len.toNat - 1 - e.1.cnt.toNat)) ∨ (e.1.phase = .ckHi ∧ e.2 = e.1.len.toNat) ∨
      (e.1.phase = .ckLo ∧ e.2 = e.1.len.toNat + 1) ∨ (e.1.phase = .drain ∧ e.2 = e.1.len.toNat + 2)) := by
  unfold Enc.Inv; decide

theorem test_meets_SendPutsTheComposedFrameOnTheWire :
    (∃ s : State, ([] : List Byte).length ≤ 254 ∧ s.enc = Enc.reset ∧ s.port = none ∧ s.full = false ∧
      s.hostq = (sendWords []).map issueWord ++ [] ∧ s.turns = sendTurns 0 ++ []) ∧
    (∃ s : State, (List.replicate 254 (7 : Byte)).length ≤ 254 ∧ s.enc = Enc.reset ∧ s.port = none ∧ s.full = false ∧
      s.hostq = (sendWords (List.replicate 254 7)).map issueWord ++ [.pop] ∧ s.turns = sendTurns 254 ++ [.pop]) :=
  ⟨⟨{ base with hostq := (sendWords []).map issueWord ++ [], turns := sendTurns 0 ++ [] }, by decide⟩,
   ⟨{ base with hostq := (sendWords (List.replicate 254 7)).map issueWord ++ [.pop], turns := sendTurns 254 ++ [.pop] },
     by rw [List.length_replicate], rfl, rfl, rfl, rfl, rfl⟩⟩

/-- A state with the frame of AIM_ON on the wire, ENC in DRAIN. -/
def drained (obuf : Option Byte) (tx : List Byte) : State := encAt base .drain 0 0x00CD obuf tx

theorem test_meets_EncDoneMeansTheFrameIsOnTheWire : ∃ s : State, s.Inv ∧ s.enc.phase = .drain ∧ s.enc.obuf = none ∧
    s.full = false := by
  refine ⟨drained none [0x04, 0xC5, 0x04, 0x00, 0xFF, 0x33], ⟨?_, ?_, ?_, ?_, ?_, ?_⟩, rfl, rfl, rfl⟩
  · unfold Enc.Inv; decide
  · exact ⟨[], [0xC5, 0x04, 0x00], by decide, by decide, by decide⟩
  · exact ⟨by decide, by decide⟩
  · intro h; cases h
  · intro ev h; cases h
  · exact Nat.zero_le _

theorem test_meets_TxErrorLeavesAProperInitialPart : ∃ s : State, s.Inv ∧ s.enc.obuf = some 0x04 ∧ s.full = false := by
  refine ⟨encAt base .payload 3 0x0004 (some 4) [0x77], ⟨?_, ?_, ?_, ?_, ?_, ?_⟩, rfl, rfl⟩
  · unfold Enc.Inv; decide
  · exact ⟨[0x77], [], by decide, by decide, by decide⟩
  · exact ⟨by decide, by decide⟩
  · intro h; cases h
  · intro ev h; cases h
  · exact Nat.zero_le _

theorem test_meets_ParStartArmsTheParser : opField 0x6001 = 0x6 ∧ (0x6001 : Word) ≠ 0x6000 ∧ base.par.phase = .idle ∧
    (parLen base).par.phase ≠ .idle ∧ (parLen base).full = false ∧ (parLen fullQ).par.phase ≠ .idle ∧
    (parLen fullQ).full = true := by decide

/-- PAR one byte before the end of AIM_ON's frame meets R29. -/
theorem par_last_inv (s : State) : (parAt s 1 0x00CD [0xC5, 0x04, 0x00, 0xFF]).par.Inv :=
  ⟨fun h => absurd rfl h, fun _ => ⟨by simp [parAt], by simp [parAt], by simp [parAt], by simp only [parAt]; decide⟩⟩

theorem test_meets_RxWaitsUnlessArmedAndOffered : base.par.phase = .idle ∧ base.linkRx = [] ∧
    ((parLen fullQ).full = true ∧ (parLen fullQ).par.phase = .len) ∧
    ((parAt fullQ 5 4 []).full = true ∧ (parAt fullQ 5 4 []).par.phase = .body) ∧
    (∃ s : State, s.linkRx = .byte 0x33 :: [] ∧ s.full = true ∧ s.par.phase = .body ∧ s.par.rem = 1 ∧ s.par.Inv) :=
  ⟨by decide, by decide, by decide, by decide,
   ⟨{ parAt fullQ 1 0x00CD [0xC5, 0x04, 0x00, 0xFF] with linkRx := [.byte 0x33] }, rfl, rfl, rfl, rfl, par_last_inv fullQ⟩⟩

theorem test_meets_RxInLenTakesTheLengthByte : ∀ x ∈ [RxItem.endOfStream, .byte 0, .byte 1, .byte 255],
    ({ parLen base with linkRx := [x] } : State).par.phase = .len ∧
    ({ parLen base with linkRx := [x] } : State).linkRx = x :: [] ∧
    ({ parLen base with linkRx := [x] } : State).full = false := by decide

theorem test_meets_RxInBodyTakesAByte : ∃ s : State, s.par.phase = .body ∧ s.linkRx = .byte 0xFF :: [] ∧ 1 < s.par.rem.toNat :=
  ⟨{ parAt base 2 0x00CD [0xC5, 0x04, 0x00] with linkRx := [.byte 0xFF] }, by decide⟩

theorem test_meets_RxOfTheLastByteJudgesTheFrame : ∃ s : State, s.par.Inv ∧ s.par.phase = .body ∧ s.linkRx = .byte 0x33 :: [] ∧
    s.par.rem = 1 :=
  ⟨{ parAt base 1 0x00CD [0xC5, 0x04, 0x00, 0xFF] with linkRx := [.byte 0x33] }, par_last_inv base, rfl, rfl, rfl⟩

theorem test_meets_RxEndInBodyIsATruncatedFrame : ∃ s : State, s.par.phase = .body ∧ s.linkRx = .endOfStream :: [] ∧
    s.full = false :=
  ⟨{ parAt base 5 4 [] with linkRx := [.endOfStream] }, by decide⟩

/-- A whole frame and one byte more (L2-PAR-2), and a frame that has not all arrived (L2-PAR-11). -/
theorem test_meets_ParComputesParse :
    (∃ s : State, s.par = Par.reset ∧ s.full = false ∧ parse s.linkRx = some (.frame 0x01 [] 0xFFFF, [.byte 0x55]) ∧
      s.turns = List.replicate (s.linkRx.length - [RxItem.byte 0x55].length) .rx ++ []) ∧
    (∃ s : State, s.par = Par.reset ∧ s.full = false ∧ parse s.linkRx = none ∧
      s.turns = List.replicate s.linkRx.length .rx ++ []) :=
  ⟨⟨{ base with linkRx := [.byte 1, .byte 0xFF, .byte 0xFF, .byte 0x55], turns := [.rx, .rx, .rx] }, by decide⟩,
   ⟨{ base with linkRx := [.byte 4, .byte 0xC5], turns := [.rx, .rx] }, by decide⟩⟩

theorem test_meets_ParseReadsBackComposedFrames : (List.replicate 254 (0 : Byte)).length ≤ 254 ∧ ([] : List Byte).length ≤ 254 := by
  rw [List.length_replicate]; decide

/-- L2-PAR-9 and L2-PAR-10, with offsets 1, 3, L = 4 and L + 1 = 5 of the frame. -/
theorem test_meets_TamperedFramesAreCaught :
    compose [0xC5, 0x04, 0x00] = .ok [0x04, 0xC5, 0x04, 0x00, 0xFF, 0x33] ∧
    (∀ e ∈ [(1, (0xC4 : Byte)), (3, 0x01), (4, 0xFE), (5, 0x32)], 1 ≤ e.1 ∧
      e.1 < ([0x04, 0xC5, 0x04, 0x00, 0xFF, 0x33] : List Byte).length ∧
      ([0x04, 0xC5, 0x04, 0x00, 0xFF, 0x33] : List Byte)[e.1]? ≠ some e.2) ∧
    ([0xC5, 0x04, 0x00] : List Byte).length + 1 < (0x05 : Byte).toNat :=
  ⟨rfl, by decide, by decide⟩

theorem test_meets_FrameEventMeansAComposedFrameArrived : ∃ s t : State, s.Inv ∧ fire .rx s = .next t ∧
    t.rspq = s.rspq ++ [.frame 4 [0xC5, 0x04, 0x00] 0xFF33] := by
  refine ⟨{ parAt base 1 0x00CD [0xC5, 0x04, 0x00, 0xFF] with linkRx := [.byte 0x33] }, _, ⟨?_, ?_, par_last_inv base, ?_, ?_, ?_⟩,
    rfl, by decide⟩
  · unfold Enc.Inv; decide
  · trivial
  · exact fun _ => ⟨[], by decide⟩
  · intro ev h; cases h
  · exact Nat.zero_le _

theorem test_meets_CatalogFramesReachTheWire : ∃ s : State, s.enc = Enc.reset ∧ s.port = none ∧ s.full = false ∧
    s.hostq = .issue (encode .aimOn) :: [] ∧ s.turns = .host :: sendTurns 3 ++ [] :=
  ⟨{ base with hostq := [.issue (.frame 0xC5)], turns := .host :: sendTurns 3 ++ [] }, by decide⟩

/-- A state that keeps the invariant, with nothing going on and the given turn next. -/
theorem base_inv (q : List HostAct) (us : List Turn) : State.Inv { base with hostq := q, turns := us } := by
  refine ⟨?_, trivial, ⟨?_, ?_⟩, ?_, ?_, ?_⟩
  · show Enc.reset.Inv; unfold Enc.Inv; decide
  · intro _; exact ⟨rfl, rfl, rfl, rfl⟩
  · intro h; cases h
  · intro h; cases h
  · intro ev h; cases h
  · exact Nat.zero_le _

theorem test_meets_EveryStepKeepsTheInvariant : ∃ s t : State, s.Inv ∧ step s = .next t ∧ s.turns = [.host] :=
  ⟨{ base with hostq := [.issue (.cmd 0x4003)], turns := [.host] }, _, base_inv _ _, rfl, rfl⟩

/-- Both outcomes: a step, and the refusal of an entry the catalog does not have. -/
theorem test_meets_NoStepFaultsFromTheInvariant :
    State.Inv { base with turns := [.rx] } ∧
    (∃ s : State, s.Inv ∧ s.nextTurn = .host ∧ s.hostq = .issue (.frame 0x99) :: [] ∧ 0x99 ∉ catalogOpcodes) :=
  ⟨base_inv [] [.rx], ⟨{ base with hostq := [.issue (.frame 0x99)], turns := [.host] }, base_inv _ _, rfl, rfl, by decide⟩⟩

theorem test_meets_EventsAreKeptInOrder :
    (∃ s t : State, step s = .next t ∧ s.nextTurn ≠ .rst ∧ (s.nextTurn = .host → s.hostq.head? ≠ some .rst) ∧
      t.popped ++ t.rspq = [.ckval 0x0000]) ∧
    (∃ s t : State, step s = .next t ∧ s.nextTurn = .rst ∧ s.rspq ≠ []) ∧
    (∃ s t : State, step s = .next t ∧ s.nextTurn = .host ∧ s.hostq.head? = some .rst) :=
  ⟨⟨{ base with hostq := [.issue (.cmd 0x3000)], turns := [.host] }, _, rfl, by decide, by decide, by decide⟩,
   ⟨{ fullQ with turns := [.rst] }, _, rfl, rfl, by decide⟩,
   ⟨{ fullQ with hostq := [.rst], turns := [.host] }, _, rfl, rfl, rfl⟩⟩

theorem test_meets_FullQueueNeverGrows : ∃ s t : State, s.full = true ∧ step s = .next t :=
  ⟨{ fullQ with hostq := [.issue (.cmd 0x3000)], turns := [.host] }, _, by decide, rfl⟩

theorem test_meets_StepTouchesAtMostOneUnit : ∃ s t : State, step s = .next t ∧ s.nextTurn ≠ .rst ∧
    (s.nextTurn = .host → s.hostq.head? ≠ some .rst) ∧ t.enc ≠ s.enc :=
  ⟨{ base with hostq := [.issue (.cmd 0x4003)], turns := [.host] }, _, rfl, by decide, by decide, by decide⟩

/-- Two states that share PAR and ENC but not CK. -/
theorem test_meets_UnitsDoNotSeeEachOther : ∃ s1 s2 : State, s1.full = s2.full ∧ s1.ck ≠ s2.ck ∧ s1.enc = s2.enc ∧
    s1.par = s2.par ∧ s1.linkRx = s2.linkRx ∧ (nextOf (exec (.encStart 3) s1)).isSome = true ∧
    (nextOf (exec (.encStart 3) s2)).isSome = true ∧ (nextOf (fire .enc s1)).isSome = true ∧
    (nextOf (fire .enc s2)).isSome = true ∧ (nextOf (fire (.tx .reject) s1)).isSome = true ∧
    (nextOf (fire (.tx .reject) s2)).isSome = true ∧ (nextOf (fire .rx s1)).isSome = true ∧
    (nextOf (fire .rx s2)).isSome = true :=
  ⟨encAt base .payload 3 4 (some 4) [], { encAt base .payload 3 4 (some 4) [] with ck := ⟨0x1234⟩ }, by decide⟩

theorem test_meets_WireRecordsOnlyGrow : ∃ s t : State, step s = .next t ∧ t.txlog = s.txlog ++ [0x04] ∧ t.enc.obuf = none :=
  ⟨{ encAt base .payload 3 4 (some 4) [] with turns := [.tx .accept] }, _, rfl, rfl, rfl⟩

/-- A held word that stays, one that is executed, and one that a reset discards. -/
theorem test_meets_HeldWordStaysPresented :
    (∃ s t : State, s.port = some 0x3000 ∧ step s = .next t ∧ t.port = some 0x3000) ∧
    (∃ s t : State, s.port = some 0x3000 ∧ step s = .next t ∧ t.port = none ∧ s.nextTurn = .port) ∧
    (∃ s t : State, s.port = some 0x3000 ∧ step s = .next t ∧ t.port = none ∧ s.nextTurn = .rst) :=
  ⟨⟨{ fullQ with port := some 0x3000, turns := [.port] }, _, rfl, rfl, rfl⟩,
   ⟨{ base with port := some 0x3000, turns := [.port] }, _, rfl, rfl, rfl, rfl⟩,
   ⟨{ fullQ with port := some 0x3000, turns := [.rst] }, _, rfl, rfl, rfl, rfl⟩⟩

theorem test_meets_NoStepChangesTheDepth : ∃ s t : State, step s = .next t ∧ s.rspqDepth = .atLeastOne 0 :=
  ⟨{ fullQ with turns := [.rst] }, _, rfl, rfl⟩

/-- R255: a pop the HOST has chosen keeps the run going, a reset left in its script does not. -/
theorem test_run_over : State.runOver { fullQ with turns := [.pop] } = false ∧
    State.runOver { base with hostq := [.rst] } = true ∧ State.runOver { base with hostq := [.rst, .pop] } = false ∧
    State.runOver { base with turns := [.plan (.issue (.cmd 0x3000))] } = false ∧ base.completed = true := by decide

/-- PAR armed with nothing offered, RSPQ full, a CK_RD held, and a turn chosen: the run is over and not completed (R255). -/
theorem test_meets_NothingMovesWhenTheRunIsOver :
    ∃ s : State, s.par.Inv ∧ s.runOver = true ∧ s.turns ≠ [] ∧ s.port ≠ none :=
  ⟨{ parLen fullQ with port := some 0x3000, turns := [.rx], hostq := [.rst] }, by simp [parLen, Par.reset, Par.Inv], by decide,
   by decide, by decide⟩

/-- A push, with a command to CK, an RX step and a POP between the steps that send it. -/
theorem test_meets_SendReachesTheWireUnderAnyInterleaving : ∃ (t : State) (ms : List Move),
    (1 : Byte).toNat = ([7] : List Byte).length ∧ base.enc = Enc.reset ∧ Move.tx .reject ∉ ms ∧
    encCommands ms = .encStart 1 :: ([7] : List Byte).map Instr.encPush ∧ applyMoves ms base = .next t ∧ t.enc.phase = .idle :=
  ⟨_, [.command (.encStart 1), .command (.ckAdd 3), .tx .accept, .command .ckRd, .command (.encPush 7), .rx, .tx .accept, .enc,
     .tx .accept, .pop, .enc, .tx .accept, .enc], by decide, rfl, by decide, rfl, rfl, rfl⟩

/-- One state for each clause. -/
theorem test_meets_EventsEachStepCanAppend :
    (∃ t : State, decodeWord 0x9000 = .error .reservedOp ∧ runCode (.cmd 0x9000) base = .next t ∧
      t.rspq = base.rspq ++ [.err (.illegalCommand 0x9000)]) ∧
    (∃ t : State, exec (.encStart 255) base = .next t ∧ t.rspq = base.rspq ++ [.err (.frameTooLarge 255)]) ∧
    (∃ s t : State, fire .enc s = .next t ∧ t.rspq = s.rspq ++ [.encDone 4]) ∧
    (∃ s t : State, fire (.tx .accept) s = .next t ∧ t.txlog = s.txlog ++ [4]) ∧
    (∃ s t : State, fire (.tx .reject) s = .next t ∧ t.rspq = s.rspq ++ [.err (.transportError .enc 6 0)]) ∧
    (∃ s t : State, fire .rx s = .next t ∧ t.rspq = s.rspq ++ [.err (.malformedFrame 0)]) :=
  ⟨⟨_, by decide, rfl, rfl⟩, ⟨_, rfl, rfl⟩, ⟨drained none [], _, rfl, rfl⟩,
   ⟨encAt base .payload 3 4 (some 4) [], _, rfl, rfl⟩, ⟨encAt base .payload 3 4 (some 4) [], _, rfl, rfl⟩,
   ⟨{ parLen base with linkRx := [.byte 0] }, _, rfl, rfl⟩⟩

end Sys2Proof.Tests
end

section
/-! SUPPORT. Proofs of the statements about the state as a whole (10_state.md): what one step can do to the block is
said once (`Effect`, `step_cases`); the order of the events, the depth of RSPQ and the invariant follow from it. -/

namespace Sys2Proof.Machine

/-! ## What a step can do to the block -/

/-- `t` agrees with `s` in ENC, PAR, the queue, its depth and the records; CK, the command port and the environment are
free. -/
structure State.SameBlock (s t : State) : Prop where
  enc : t.enc = s.enc
  par : t.par = s.par
  rspq : t.rspq = s.rspq
  rspqDepth : t.rspqDepth = s.rspqDepth
  txlog : t.txlog = s.txlog
  rxlog : t.rxlog = s.rxlog
  popped : t.popped = s.popped

theorem State.SameBlock.refl (s : State) : s.SameBlock s := ⟨rfl, rfl, rfl, rfl, rfl, rfl, rfl⟩

theorem State.SameBlock.trans {s t u : State} (h : s.SameBlock t) (h' : t.SameBlock u) : s.SameBlock u :=
  ⟨h'.enc.trans h.enc, h'.par.trans h.par, h'.rspq.trans h.rspq, h'.rspqDepth.trans h.rspqDepth,
   h'.txlog.trans h.txlog, h'.rxlog.trans h.rxlog, h'.popped.trans h.popped⟩

theorem State.SameBlock.setCkAcc (s : State) (v : Word) : s.SameBlock (s.setCkAcc v) :=
  ⟨rfl, rfl, rfl, rfl, rfl, rfl, rfl⟩

theorem State.SameBlock.setPort (s : State) (w : Option Word) : s.SameBlock (s.setPort w) :=
  ⟨rfl, rfl, rfl, rfl, rfl, rfl, rfl⟩

theorem State.SameBlock.setHostq (s : State) (q : List HostAct) : s.SameBlock (s.setHostq q) :=
  ⟨rfl, rfl, rfl, rfl, rfl, rfl, rfl⟩

theorem State.SameBlock.dropTurn (s : State) : s.SameBlock s.dropTurn := by constructor <;> simp

theorem State.SameBlock.full_eq {s t : State} (h : s.SameBlock t) : t.full = s.full :=
  full_congr h.rspqDepth h.rspq

/-- PAR, armed, takes the item `x`: the registers after it and the event of the step, if any (R159 to R162). -/
def Par.Takes (p : Par) (x : RxItem) (m : Par × Option Event) : Prop :=
  (p.phase = .len ∧ m = p.takeLen x) ∨ (p.phase = .body ∧ p.takeBody x = .ok m)

/-- The effects a step other than a reset can have on the block. Every event is appended to a queue that has room, and one
that a command reports is allowed by R30, R210 and R211 in every state. -/
inductive Effect (s : State) : State → Prop where
  | quiet {t : State} (same : s.SameBlock t) : Effect s t
  | report (ev : Event) (room : s.full = false) (allowed : ev.Inv) : Effect s (s.respond ev)
  | pop (ev : Event) (rest : List Event) (queue : s.rspq = ev :: rest) :
      Effect s { s with rspq := rest, popped := s.popped ++ [ev] }
  | start (n : Byte) (phase : s.enc.phase = .idle) (small : n ≠ 255) : Effect s (s.setEnc (Enc.start n))
  | push (b : Byte) (phase : s.enc.phase = .payload) (empty : s.enc.obuf = none) : Effect s (s.setEnc (s.enc.push b))
  | emitHigh (phase : s.enc.phase = .ckHi) (empty : s.enc.obuf = none) : Effect s (s.setEnc s.enc.emitHigh)
  | emitLow (phase : s.enc.phase = .ckLo) (empty : s.enc.obuf = none) : Effect s (s.setEnc s.enc.emitLow)
  | finish (phase : s.enc.phase = .drain) (empty : s.enc.obuf = none) (room : s.full = false) :
      Effect s ((s.setEnc Enc.reset).respond (.encDone s.enc.len))
  | accept (b : Byte) (offered : s.enc.obuf = some b) : Effect s ((s.sendByte b).setEnc { s.enc with obuf := none })
  | reject (b : Byte) (sent : Nat) (offered : s.enc.obuf = some b)
      (count : emitted s.enc.phase s.enc.len.toNat s.enc.cnt.toNat = some (sent + 1))
      (room : s.full = false) :
      Effect s ((s.setEnc Enc.reset).raise (.transportError .enc (s.enc.len.toNat + 2) sent))
  | arm (phase : s.par.phase = .idle) : Effect s (s.setPar { s.par with phase := .len })
  | take (x : RxItem) (rest : List RxItem) (p : Par) (takes : s.par.Takes x (p, none)) :
      Effect s ((s.takeItem x rest).setPar p)
  | takeLast (x : RxItem) (rest : List RxItem) (p : Par) (ev : Event) (takes : s.par.Takes x (p, some ev))
      (room : s.full = false) : Effect s (((s.takeItem x rest).setPar p).respond ev)

/-! ## The events that commands report -/

theorem EncPhase.code_of_ne_idle {p : EncPhase} (h : p ≠ .idle) : p.code.toNat ∈ [1, 2, 3, 4] := by
  revert h; cases p <;> decide

theorem EncPhase.code_of_ne_payload {p : EncPhase} (h : p ≠ .payload) : p.code.toNat ∈ [0, 2, 3, 4] := by
  revert h; cases p <;> decide

theorem ParPhase.code_of_ne_idle {p : ParPhase} (h : p ≠ .idle) : p.code.toNat ∈ [1, 2] := by
  revert h; cases p <;> decide

/-- R33: the fields of STATUS hold codes of phases. -/
theorem status_inv (e : Enc) (p : Par) : (Event.status (statusWord e p)).Inv := by
  unfold Event.Inv statusWord
  generalize e.phase = encPhase, e.obufFull = full, p.phase = parPhase
  cases encPhase <;> cases full <;> cases parPhase <;> decide

/-- OP is below 8 where bit 15 is 0 (R76). -/
theorem opField_lt_of_msb {w : Word} (h : w.msb = false) : (opField w).toNat < 8 := by
  have hw : w.toNat < 2 ^ 15 := by simpa [BitVec.msb_eq_decide] using h
  have hop : (opField w).toNat = w.toNat / 4096 % 16 := by
    simp [opField, BitVec.extractLsb'_toNat, Nat.shiftRight_eq_div_pow]
  omega

theorem noOperand_eq (op : BitVec 4) : noOperand op = decide (op.toNat ∈ [0, 1, 3, 6, 7]) := by
  revert op; decide

theorem imm_ne_zero_of_bare_error {imm : Byte} {i : Instr} {r : DecodeReject} (h : bare imm i = .error r) :
    imm ≠ 0#8 := by
  rintro rfl
  simp [bare] at h

/-- A word the decoder rejects is illegal (R77). -/
theorem wordLegal_of_rejected {w : Word} {r : DecodeReject} (h : decodeWord w = .error r) : wordLegal w = false := by
  by_contra legal
  simp only [wordLegal, Bool.not_eq_false, Bool.and_eq_true, Bool.not_eq_true', beq_iff_eq] at legal
  obtain ⟨⟨hmsb, hrsv⟩, himm⟩ := legal
  have hop := opField_lt_of_msb hmsb
  unfold decodeWord at h
  rw [if_neg (by omega), if_neg (not_not.mpr hrsv)] at h
  rw [noOperand_eq] at himm
  split at h
  case h_1 op | h_2 op | h_4 op | h_7 op | h_8 op => simp [op, imm_ne_zero_of_bare_error h] at himm
  case h_3 | h_5 | h_6 => cases h
  case h_9 h0 h1 h2 h3 h4 h5 h6 h7 => simp only [imp_false] at *; omega

/-! ## The effect of each step -/

theorem respondOrHold_effect {w : Word} {ev : Event} {s t : State} (hev : ev.Inv)
    (h : respondOrHold w ev s = .next t) : Effect s t := by
  rcases respondOrHold_next h with ⟨-, rfl⟩ | ⟨room, rfl⟩
  · exact .quiet (.setPort s _)
  · exact .report ev room hev

theorem execEncStart_effect {n : Byte} {s t : State} (h : execEncStart n s = .next t) : Effect s t := by
  rcases execEncStart_next h with ⟨-, -, rfl⟩ | ⟨busy, room, rfl⟩ | ⟨-, -, -, rfl⟩ | ⟨-, big, room, rfl⟩ |
    ⟨phase, small, rfl⟩
  · exact .quiet (.setPort s _)
  · exact .report _ room (.inl ⟨rfl, ⟨n, rfl⟩, EncPhase.code_of_ne_idle busy⟩)
  · exact .quiet (.setPort s _)
  · exact .report _ room big
  · exact .start n phase small

theorem execEncPush_effect {b : Byte} {s t : State} (h : execEncPush b s = .next t) : Effect s t := by
  rcases execEncPush_next h with ⟨-, -, rfl⟩ | ⟨wrong, room, rfl⟩ | ⟨-, -, rfl⟩ | ⟨phase, empty, rfl⟩
  · exact .quiet (.setPort s _)
  · exact .report _ room (.inr (.inl ⟨rfl, ⟨b, rfl⟩, EncPhase.code_of_ne_payload wrong⟩))
  · exact .quiet (.setPort s _)
  · exact .push b phase empty

theorem execParStart_effect {s t : State} (h : execParStart s = .next t) : Effect s t := by
  rcases execParStart_next h with ⟨-, -, rfl⟩ | ⟨busy, room, rfl⟩ | ⟨phase, rfl⟩
  · exact .quiet (.setPort s _)
  · exact .report _ room (.inr (.inr ⟨rfl, rfl, ParPhase.code_of_ne_idle busy⟩))
  · exact .arm phase

theorem hostSends_effect {p : List Byte} {s t : State} (h : hostSends p s = .next t) : Effect s t :=
  hostSends_next h ▸ .quiet (.setHostq s _)

theorem exec_effect {i : Instr} {s t : State} (h : exec i s = .next t) : Effect s t := by
  cases i with
  | nop => cases h; exact .quiet (.refl s)
  | ckClr => cases h; exact .quiet (.setCkAcc s _)
  | ckAdd b => cases h; exact .quiet (.setCkAcc s _)
  | ckRd => exact respondOrHold_effect (ev := .ckval _) trivial h
  | encStart n => exact execEncStart_effect h
  | encPush b => exact execEncPush_effect h
  | parStart => exact execParStart_effect h
  | statRd => exact respondOrHold_effect (status_inv s.enc s.par) h
  | aimOn => exact hostSends_effect h
  | aimOff => exact hostSends_effect h
  | illuminationOn => exact hostSends_effect h
  | illuminationOff => exact hostSends_effect h
  | capabilitiesRequest => exact hostSends_effect h

theorem raiseIllegal_effect {w : Word} {s t : State} (illegal : wordLegal w = false) (h : raiseIllegal w s = .next t) :
    Effect s t := by
  rcases raiseOrHold_next h with ⟨-, rfl⟩ | ⟨room, rfl⟩
  · exact .quiet (.setPort s _)
  · exact .report _ room illegal

theorem runCode_effect {c : Code} {s t : State} (h : runCode c s = .next t) : Effect s t := by
  cases hd : decode c with
  | ok i => exact exec_effect (runCode_of_decode hd s ▸ h)
  | error r =>
    cases c with
    | cmd w => exact raiseIllegal_effect (wordLegal_of_rejected hd) (runCode_of_illegal hd s ▸ h)
    | frame b => simp [runCode, hd] at h

theorem popStep_effect {s t : State} (h : popStep s = .next t) : Effect s t := by
  rcases popStep_next h with ⟨-, rfl⟩ | ⟨ev, rest, queue, rfl⟩
  · exact .quiet (.refl _)
  · exact .pop ev rest queue

theorem encStep_effect {s t : State} (h : encStep s = .next t) : Effect s t := by
  rcases encStep_next h with rfl | ⟨empty, phase, rfl⟩ | ⟨empty, phase, rfl⟩ | ⟨empty, phase, room, rfl⟩
  · exact .quiet (.refl _)
  · exact .emitHigh phase empty
  · exact .emitLow phase empty
  · exact .finish phase empty room

theorem txStep_effect {a : TxAnswer} {s t : State} (h : txStep a s = .next t) : Effect s t := by
  rcases txStep_next h with rfl | ⟨b, -, offered, rfl⟩ | ⟨b, sent, -, offered, count, room, rfl⟩
  · exact .quiet (.refl _)
  · exact .accept b offered
  · exact .reject b sent offered count room

theorem rxStep_effect {s t : State} (h : rxStep s = .next t) : Effect s t := by
  rcases rxStep_next h with rfl | ⟨x, rest, ⟨p, ev?⟩, -, takes, ⟨rfl, rfl⟩ | ⟨ev, rfl, room, rfl⟩⟩
  · exact .quiet (.refl _)
  · exact .take x rest p takes
  · exact .takeLast x rest p ev takes room

/-- The turn `τ` is a reset: RST itself, or the HOST coming to an RST in its script. -/
def State.ResetBy (s : State) (τ : Turn) : Prop := τ = .rst ∨ (τ = .host ∧ s.hostq.head? = some .rst)

theorem portStep_effect {s t : State} (h : portStep s = .next t) : ∃ u, s.SameBlock u ∧ Effect u t := by
  unfold portStep at h
  split at h
  · exact ⟨s, .refl s, .quiet (notEnabled_next h ▸ .refl s)⟩
  · exact ⟨_, .setPort s none, runCode_effect h⟩

theorem hostStep_effect {s t : State} (hr : s.hostq.head? ≠ some .rst) (h : hostStep s = .next t) :
    ∃ u, s.SameBlock u ∧ Effect u t := by
  rcases hostStep_next h with rfl | ⟨c, later, -, -, h⟩ | ⟨a, later, q, -, -, h⟩ | ⟨later, hq, -⟩
  · exact ⟨t, .refl t, .quiet (.refl t)⟩
  · exact ⟨_, .setHostq s later, runCode_effect h⟩
  · exact ⟨_, .setHostq s q, popStep_effect h⟩
  · exact absurd (by rw [hq]; rfl) hr

/-- A fired step that is no reset has one of the effects, after a change that the block does not see. -/
theorem fire_effect {τ : Turn} {s t : State} (hr : ¬ s.ResetBy τ) (h : fire τ s = .next t) :
    ∃ u, s.SameBlock u ∧ Effect u t := by
  cases τ with
  | host => exact hostStep_effect (fun hq => hr (.inr ⟨rfl, hq⟩)) h
  | port => exact portStep_effect h
  | pop => exact ⟨s, .refl s, popStep_effect h⟩
  | rst => exact absurd (.inl rfl) hr
  | enc => exact ⟨s, .refl s, encStep_effect h⟩
  | tx a => exact ⟨s, .refl s, txStep_effect h⟩
  | rx => exact ⟨s, .refl s, rxStep_effect h⟩
  | plan a => cases h; exact ⟨s, .refl s, .quiet (.setHostq s _)⟩
  | arrive x => cases h; exact ⟨s, .refl s, .quiet ⟨rfl, rfl, rfl, rfl, rfl, rfl, rfl⟩⟩

theorem fire_of_resetBy {τ : Turn} {s : State} (hr : s.ResetBy τ) : ∃ u, s.SameBlock u ∧ fire τ s = .next u.rst := by
  rcases hr with rfl | ⟨rfl, hq⟩
  · exact ⟨s, .refl s, rfl⟩
  · obtain ⟨later, hq⟩ := List.head?_eq_some_iff.mp hq
    exact ⟨_, .setHostq s later, by simp [fire, hostStep, hq]⟩

/-- A step is a reset, or it has one of the effects, after a change that the block does not see. -/
theorem step_cases {s t : State} (h : step s = .next t) :
    ∃ u, s.SameBlock u ∧
      ((s.ResetBy s.nextTurn ∧ t = u.rst) ∨ (¬ s.ResetBy s.nextTurn ∧ Effect u t)) := by
  have hdrop : s.dropTurn.ResetBy s.nextTurn ↔ s.ResetBy s.nextTurn := by simp [State.ResetBy]
  by_cases hr : s.ResetBy s.nextTurn
  · obtain ⟨u, hu, hfire⟩ := fire_of_resetBy (hdrop.mpr hr)
    have ht : t = u.rst := by
      rw [step, hfire] at h
      cases h; rfl
    exact ⟨u, (State.SameBlock.dropTurn s).trans hu, .inl ⟨hr, ht⟩⟩
  · obtain ⟨u, hu, heffect⟩ := fire_effect (mt hdrop.mp hr) h
    exact ⟨u, (State.SameBlock.dropTurn s).trans hu, .inr ⟨hr, heffect⟩⟩

/-! ## The queue and its depth -/

theorem Effect.rspqDepth_eq {s t : State} (h : Effect s t) : t.rspqDepth = s.rspqDepth := by
  cases h with
  | quiet same => exact same.rspqDepth
  | _ => rfl

/-- R31, R196: an effect leaves the queue as it is, appends one event where there is room, or hands over the head. -/
theorem Effect.queue {s t : State} (h : Effect s t) :
    (t.rspq = s.rspq ∧ t.popped = s.popped) ∨
    (∃ ev, s.full = false ∧ t.rspq = s.rspq ++ [ev] ∧ t.popped = s.popped) ∨
    (∃ ev, s.rspq = ev :: t.rspq ∧ t.popped = s.popped ++ [ev]) := by
  cases h with
  | quiet same => exact .inl ⟨same.rspq, same.popped⟩
  | report ev room => exact .inr (.inl ⟨ev, room, rfl, rfl⟩)
  | finish _ _ room => exact .inr (.inl ⟨_, room, rfl, rfl⟩)
  | reject _ _ _ _ room => exact .inr (.inl ⟨_, room, rfl, rfl⟩)
  | takeLast _ _ _ ev _ room => exact .inr (.inl ⟨ev, room, rfl, rfl⟩)
  | pop ev rest queue => exact .inr (.inr ⟨ev, queue, rfl⟩)
  | _ => exact .inl ⟨rfl, rfl⟩

/-- R32: what was popped and what is queued, together, grow at the end by at most one event. -/
theorem Effect.events_append {s t : State} (h : Effect s t) :
    ∃ new : List Event, new.length ≤ 1 ∧ t.popped ++ t.rspq = s.popped ++ s.rspq ++ new := by
  rcases h.queue with ⟨hq, hp⟩ | ⟨ev, -, hq, hp⟩ | ⟨ev, hq, hp⟩
  · exact ⟨[], by simp, by simp [hq, hp]⟩
  · exact ⟨[ev], by simp, by simp [hq, hp]⟩
  · exact ⟨[], by simp, by simp [hq, hp]⟩

theorem Effect.length_le_of_full {s t : State} (h : Effect s t) (full : s.full = true) :
    t.rspq.length ≤ s.rspq.length := by
  rcases h.queue with ⟨hq, -⟩ | ⟨ev, room, -, -⟩ | ⟨ev, hq, -⟩
  · rw [hq]
  · simp [full] at room
  · simp [hq]

/-- Settles O57: neither a reset nor any other effect writes the field. -/
theorem noStepChangesTheDepth : Obligations.NoStepChangesTheDepth := by
  intro s t h
  obtain ⟨u, same, ⟨-, rfl⟩ | ⟨-, effect⟩⟩ := step_cases h
  · exact same.rspqDepth
  · exact effect.rspqDepth_eq.trans same.rspqDepth

/-- Settles O52: a reset empties the queue, and every other effect that appends needs room. -/
theorem fullQueueNeverGrows : Obligations.FullQueueNeverGrows := by
  intro s t full h
  obtain ⟨u, same, ⟨-, rfl⟩ | ⟨-, effect⟩⟩ := step_cases h
  · exact Nat.zero_le _
  · exact same.rspq ▸ effect.length_le_of_full (same.full_eq.trans full)

/-- Settles O51, by the split between resets and the other effects. -/
theorem eventsAreKeptInOrder : Obligations.EventsAreKeptInOrder := by
  intro s t h
  obtain ⟨u, same, ⟨resets, rfl⟩ | ⟨noReset, effect⟩⟩ := step_cases h
  · refine ⟨fun hturn hhost => ?_, fun _ => ⟨rfl, same.popped⟩⟩
    rcases resets with hrst | ⟨hturn', hq⟩
    · exact absurd hrst hturn
    · exact absurd hq (hhost hturn')
  · refine ⟨fun _ _ => ?_, fun resets => absurd resets noReset⟩
    exact same.popped ▸ same.rspq ▸ effect.events_append

/-! ## The invariant under the operations on the state -/

theorem holds_nil (d : Depth) : Depth.Holds d [] := by
  cases d with
  | unbounded => trivial
  | atLeastOne k => exact Nat.zero_le _

theorem holds_tail {d : Depth} {ev : Event} {q : List Event} (h : Depth.Holds d (ev :: q)) : Depth.Holds d q := by
  cases d with
  | unbounded => trivial
  | atLeastOne k => exact Nat.le_of_succ_le h

theorem State.Inv.of_sameBlock {s t : State} (hs : s.Inv) (same : s.SameBlock t) : t.Inv where
  enc := same.enc ▸ hs.enc
  encWire := same.enc ▸ same.txlog ▸ hs.encWire
  par := same.par ▸ hs.par
  parWire := same.par ▸ same.rxlog ▸ hs.parWire
  events := same.popped ▸ same.rspq ▸ hs.events
  depth := same.rspqDepth ▸ same.rspq ▸ hs.depth

theorem State.Inv.setEnc {s : State} {e : Enc} (hs : s.Inv) (inv : e.Inv) (wire : e.OnWire s.txlog) :
    (s.setEnc e).Inv :=
  { hs with enc := inv, encWire := wire }

theorem State.Inv.setPar {s : State} {p : Par} (hs : s.Inv) (inv : p.Inv) (wire : p.OnWire s.rxlog) :
    (s.setPar p).Inv :=
  { hs with par := inv, parWire := wire }

/-- An allowed event may be appended where there is room. -/
theorem State.Inv.respond {s : State} {ev : Event} (hs : s.Inv) (room : s.full = false) (allowed : ev.Inv) :
    (s.respond ev).Inv :=
  { hs with
    events := fun e he => by
      rcases List.mem_append.mp (List.append_assoc s.popped s.rspq [ev] ▸ he) with he | he
      · exact hs.events e he
      · exact List.mem_singleton.mp he ▸ allowed
    depth := holds_append ev room }

/-! ## The invariant of ENC -/

theorem Enc.reset_inv : Enc.reset.Inv := by simp [Enc.Inv, Enc.reset]

theorem Enc.reset_onWire (log : List Byte) : Enc.reset.OnWire log := trivial

/-- R80, R123: the length byte of a payload of at most 254 bytes does not wrap. -/
theorem lengthByte_toNat {n : Byte} (small : n ≠ 255) : (lengthByte n).toNat = n.toNat + 1 := by
  have hn : n.toNat ≠ 255 := fun h => small (BitVec.eq_of_toNat_eq h)
  have := n.isLt
  simp [lengthByte, BitVec.toNat_add]
  omega

/-- The checksum bytes ENC has emitted in a phase, of the checksum `c` (R129, R130). -/
def EncPhase.trailer (c : Word) : EncPhase → List Byte
  | .idle | .payload | .ckHi => []
  | .ckLo => [hi c]
  | .drain => [hi c, lo c]

/-- The four phases of `Enc.OnWire` in one form: ENC.cnt is 0 outside PAYLOAD (R27). -/
theorem Enc.onWire_iff {e : Enc} {log : List Byte} (inv : e.Inv) (busy : e.phase ≠ .idle) :
    e.OnWire log ↔ ∃ before p,
      log ++ e.obuf.toList = before ++ e.len :: p ++ e.phase.trailer (checksum (e.len :: p)) ∧
      p.length + 1 + e.cnt.toNat = e.len.toNat ∧ e.acc = sum16 (e.len :: p) := by
  obtain ⟨-, hcnt, -, -⟩ := inv
  cases hp : e.phase with
  | idle => exact absurd hp busy
  | payload => simp [Enc.OnWire, hp, EncPhase.trailer]
  | ckHi =>
    have hzero : e.cnt.toNat = 0 := by simpa [hp] using hcnt
    simp [Enc.OnWire, hp, EncPhase.trailer, hzero]
  | ckLo =>
    have hzero : e.cnt.toNat = 0 := by simpa [hp] using hcnt
    simp [Enc.OnWire, hp, EncPhase.trailer, hzero]
  | drain =>
    have hzero : e.cnt.toNat = 0 := by simpa [hp] using hcnt
    simp [Enc.OnWire, hp, EncPhase.trailer, hzero, frameBytes]

theorem EncPhase.trailer_eq_nil {p : EncPhase} (h : p = .ckHi ∨ p = .payload) (c : Word) : p.trailer c = [] := by
  rcases h with rfl | rfl <;> rfl

theorem EncPhase.ne_idle_of {p : EncPhase} (h : p = .ckHi ∨ p = .payload) : p ≠ .idle := by
  rcases h with rfl | rfl <;> simp

theorem Enc.start_phase (n : Byte) : (Enc.start n).phase = .ckHi ∨ (Enc.start n).phase = .payload := by
  unfold Enc.start
  split <;> simp

theorem Enc.start_inv {n : Byte} (small : n ≠ 255) : (Enc.start n).Inv := by
  have hlen := lengthByte_toNat small
  by_cases hn : n = 0#8
  · simp [Enc.Inv, Enc.start, hn, lengthByte]
  · have hpos : 0 < n.toNat := Nat.pos_of_ne_zero fun h => hn (BitVec.eq_of_toNat_eq h)
    simp [Enc.Inv, Enc.start, hn, hlen, hpos]

theorem Enc.start_onWire {n : Byte} (small : n ≠ 255) (log : List Byte) : (Enc.start n).OnWire log := by
  have hphase := Enc.start_phase n
  rw [Enc.onWire_iff (Enc.start_inv small) (EncPhase.ne_idle_of hphase)]
  refine ⟨log, [], ?_, ?_, rfl⟩
  · rw [EncPhase.trailer_eq_nil hphase, List.append_nil]; rfl
  · simp [Enc.start, lengthByte_toNat small]; omega

/-- Pushing a byte leaves one payload byte less to come (R128). -/
theorem Enc.push_cnt {e : Enc} (b : Byte) (inv : e.Inv) (phase : e.phase = .payload) :
    (e.push b).cnt.toNat + 1 = e.cnt.toNat := by
  obtain ⟨-, hcnt, -, -⟩ := inv
  have hpos : 0 < e.cnt.toNat := hcnt.mpr phase
  have := e.cnt.isLt
  simp [Enc.push, BitVec.toNat_sub]
  omega

theorem Enc.push_phase {e : Enc} (b : Byte) (phase : e.phase = .payload) :
    (e.push b).phase = .ckHi ∧ (e.push b).cnt.toNat = 0 ∨ (e.push b).phase = .payload ∧ (e.push b).cnt.toNat ≠ 0 := by
  by_cases hz : e.cnt - 1 = 0
  · exact .inl (by simp only [Enc.push, hz]; simp)
  · exact .inr ⟨by simp only [Enc.push, if_neg hz, phase], fun h => hz (BitVec.eq_of_toNat_eq h)⟩

theorem Enc.push_inv {e : Enc} (b : Byte) (inv : e.Inv) (phase : e.phase = .payload) : (e.push b).Inv := by
  have hcnt := Enc.push_cnt b inv phase
  obtain ⟨-, -, -, hlt⟩ := inv
  have hlt : e.cnt.toNat < (e.push b).len.toNat := hlt phase
  rcases Enc.push_phase b phase with ⟨hphase, hz⟩ | ⟨hphase, hz⟩
  · simp [Enc.Inv, hphase, hz]; omega
  · simp [Enc.Inv, hphase]; omega

theorem Enc.push_onWire {e : Enc} {log : List Byte} (b : Byte) (inv : e.Inv) (wire : e.OnWire log)
    (phase : e.phase = .payload) (empty : e.obuf = none) : (e.push b).OnWire log := by
  have hphase := (Enc.push_phase b phase).imp And.left And.left
  obtain ⟨before, p, hlog, hcount, hacc⟩ := (Enc.onWire_iff inv (by simp [phase])).mp wire
  rw [Enc.onWire_iff (Enc.push_inv b inv phase) (EncPhase.ne_idle_of hphase)]
  refine ⟨before, p ++ [b], ?_, ?_, ?_⟩
  · have hlog : log = before ++ e.len :: p := by simpa [phase, empty, EncPhase.trailer] using hlog
    rw [EncPhase.trailer_eq_nil hphase]
    simp [Enc.push, hlog]
  · have hcnt := Enc.push_cnt b inv phase
    have hlen : (e.push b).len = e.len := rfl
    simp [hlen]
    omega
  · simp [Enc.push, hacc, accumulate_sum16]

theorem Enc.emitHigh_inv {e : Enc} (inv : e.Inv) (phase : e.phase = .ckHi) : e.emitHigh.Inv := by
  simpa [Enc.Inv, Enc.emitHigh, Enc.emit, phase] using inv

theorem Enc.emitLow_inv {e : Enc} (inv : e.Inv) (phase : e.phase = .ckLo) : e.emitLow.Inv := by
  simpa [Enc.Inv, Enc.emitLow, Enc.emit, phase] using inv

theorem Enc.emitHigh_onWire {e : Enc} {log : List Byte} (wire : e.OnWire log) (phase : e.phase = .ckHi)
    (empty : e.obuf = none) : e.emitHigh.OnWire log := by
  simp only [Enc.OnWire, phase, empty] at wire
  obtain ⟨before, p, hlog, hcount, hacc⟩ := wire
  exact ⟨before, p, by simp_all [Enc.emitHigh, Enc.emit, checksum], hcount, hacc⟩

theorem Enc.emitLow_onWire {e : Enc} {log : List Byte} (wire : e.OnWire log) (phase : e.phase = .ckLo)
    (empty : e.obuf = none) : e.emitLow.OnWire log := by
  simp only [Enc.OnWire, phase, empty] at wire
  obtain ⟨before, p, hlog, hcount, hacc⟩ := wire
  exact ⟨before, p, by simp_all [Enc.emitLow, Enc.emit, checksum, frameBytes], hcount, hacc⟩

theorem Enc.accept_inv {e : Enc} (inv : e.Inv) : ({ e with obuf := none } : Enc).Inv := by
  obtain ⟨hidle, hrest⟩ := inv
  refine ⟨fun hp => ?_, hrest⟩
  obtain ⟨hlen, hcnt, hacc, -⟩ := hidle hp
  exact ⟨hlen, hcnt, hacc, rfl⟩

/-- An accepted byte only moves from ENC.obuf to the end of TXLOG (R132). -/
theorem Enc.accept_onWire {e : Enc} {log : List Byte} {b : Byte} (wire : e.OnWire log) (offered : e.obuf = some b) :
    ({ e with obuf := none } : Enc).OnWire (log ++ [b]) := by
  simpa [Enc.OnWire, offered] using wire

/-- R133: never more bytes are emitted than the frame has. -/
theorem emitted_le {phase : EncPhase} {l cnt n : Nat} (h : emitted phase l cnt = some n) : n ≤ l + 2 := by
  cases phase with
  | idle => cases h
  | payload =>
    simp only [emitted] at h
    split at h
    · cases h; omega
    · cases h
  | ckHi => cases h; omega
  | ckLo => cases h; omega
  | drain => cases h; omega

/-! ## The invariant of PAR -/

theorem Par.reset_inv : Par.reset.Inv := by simp [Par.Inv, Par.reset]

theorem Par.onWire_of_ne_body {p : Par} {log : List RxItem} (h : p.phase ≠ .body) : p.OnWire log :=
  fun hp => absurd hp h

theorem Par.setPhase_inv {p : Par} {phase : ParPhase} (inv : p.Inv) (old : p.phase ≠ .body) (new : phase ≠ .body) :
    ({ p with phase := phase } : Par).Inv :=
  ⟨fun _ => inv.1 old, fun hp => absurd hp new⟩

theorem remainingAfter_toNat {l : Byte} (h : l ≠ 0) : (remainingAfter l).toNat = l.toNat + 1 := by
  have hl : l.toNat ≠ 0 := fun h' => h (BitVec.eq_of_toNat_eq h')
  have := l.isLt
  simp [remainingAfter, BitVec.toNat_add, BitVec.toNat_sub]
  omega

/-- What `State.Inv` asks of PAR's new registers, of RXLOG after the step, and of the event of the step, if any. -/
structure Par.Kept (m : Par × Option Event) (rxlog : List RxItem) : Prop where
  inv : m.1.Inv
  wire : m.1.OnWire rxlog
  event : ∀ ev, m.2 = some ev → ev.Inv

theorem Par.takeLen_kept {p : Par} (x : RxItem) (log : List RxItem) (inv : p.Inv) (phase : p.phase = .len) :
    Par.Kept (p.takeLen x) (log ++ [x]) := by
  have hidle : ({ p with phase := .idle } : Par).Inv := Par.setPhase_inv inv (by simp [phase]) (by simp)
  cases x with
  | endOfStream =>
    refine ⟨hidle, Par.onWire_of_ne_body (by simp [Par.takeLen]), ?_⟩
    rintro ev ⟨⟩
    simp [Event.Inv, ErrInfo.Inv]
  | byte l =>
    by_cases hl : l = 0
    · simp only [Par.takeLen, if_pos hl]
      refine ⟨hidle, Par.onWire_of_ne_body (by simp), ?_⟩
      rintro ev ⟨⟩
      exact hl
    · simp only [Par.takeLen, if_neg hl]
      have hpos : 0 < l.toNat := Nat.pos_of_ne_zero fun h => hl (BitVec.eq_of_toNat_eq h)
      refine ⟨?_, fun _ => ⟨log, by simp⟩, by simp⟩
      simp [Par.Inv, remainingAfter_toNat hl, sum16]
      omega

/-- Only a payload byte is added, so PAR.acc stays the sum of the length byte and the payload taken (R160). -/
theorem Par.takeByte_acc {p : Par} (b : Byte) (acc : p.acc = sum16 (p.len :: p.buf.take (p.len.toNat - 1))) :
    (p.takeByte b).acc = sum16 (p.len :: (p.buf ++ [b]).take (p.len.toNat - 1)) := by
  by_cases hpayload : p.buf.length + 1 < p.len.toNat
  · rw [List.take_of_length_le (by omega)] at acc
    rw [List.take_of_length_le (by simp; omega)]
    simp [Par.takeByte, hpayload, acc, accumulate_sum16]
  · rw [List.take_append_of_le_length (by omega)]
    simp [Par.takeByte, hpayload, acc]

theorem Par.takeByte_inv {p : Par} (b : Byte) (inv : p.Inv) (phase : p.phase = .body) (more : 1 < p.rem.toNat) :
    (p.takeByte b).Inv := by
  obtain ⟨-, hbody⟩ := inv
  obtain ⟨hlen, hrem, hcount, hacc⟩ := hbody phase
  have hrem' : (p.takeByte b).rem.toNat = p.rem.toNat - 1 := by
    simp [Par.takeByte, BitVec.toNat_sub]
    have := p.rem.isLt
    omega
  refine ⟨fun h => absurd phase h, fun _ => ⟨hlen, by omega, ?_, ?_⟩⟩
  · rw [hrem']
    simp [Par.takeByte]
    omega
  · exact takeByte_acc b hacc

theorem Par.takeByte_onWire {p : Par} {log : List RxItem} (b : Byte) (wire : p.OnWire log) (phase : p.phase = .body) :
    (p.takeByte b).OnWire (log ++ [.byte b]) := by
  intro _
  obtain ⟨before, rfl⟩ := wire phase
  exact ⟨before, by simp [Par.takeByte]⟩

theorem Par.judge_inv {p : Par} {b : Byte} {ev : Event} (inv : p.Inv) (phase : p.phase = .body)
    (last : p.rem.toNat = 1) (h : p.judge b = .ok ev) : ev.Inv := by
  obtain ⟨-, hbody⟩ := inv
  obtain ⟨hlen, -, hcount, hacc⟩ := hbody phase
  obtain ⟨k, hk⟩ : ∃ k, p.len.toNat = k + 1 := ⟨p.len.toNat - 1, by omega⟩
  have hsum : checksumOf p.acc = checksum (p.len :: (p.buf ++ [b]).take k) := by
    rw [List.take_append_of_le_length (by omega), hacc, hk]; rfl
  simp only [Par.judge, hk] at h
  split at h
  · split at h
    · rename_i received
      cases h
      exact ⟨by simp; omega, received ▸ hsum⟩
    · rename_i differ
      cases h
      exact differ
  · cases h

theorem Par.takeBody_kept {p : Par} {x : RxItem} {m : Par × Option Event} {log : List RxItem} (inv : p.Inv)
    (wire : p.OnWire log) (phase : p.phase = .body) (h : p.takeBody x = .ok m) : Par.Kept m (log ++ [x]) := by
  cases x with
  | endOfStream =>
    cases h
    obtain ⟨-, hbody⟩ := inv
    obtain ⟨-, hrem, hcount, -⟩ := hbody phase
    refine ⟨Par.reset_inv, Par.onWire_of_ne_body (by simp [Par.reset]), ?_⟩
    rintro ev ⟨⟩
    have := p.len.isLt
    exact ⟨.inr rfl, by omega, by omega⟩
  | byte b =>
    simp only [Par.takeBody] at h
    split at h
    · rename_i more
      cases h
      exact ⟨Par.takeByte_inv b inv phase more, Par.takeByte_onWire b wire phase, by simp⟩
    · split at h
      · rename_i last
        split at h
        · rename_i ev hev
          cases h
          refine ⟨Par.reset_inv, Par.onWire_of_ne_body (by simp [Par.reset]), ?_⟩
          rintro _ ⟨⟩
          exact Par.judge_inv inv phase last hev
        · cases h
      · cases h

theorem Par.Takes.kept {p : Par} {x : RxItem} {m : Par × Option Event} {log : List RxItem} (takes : p.Takes x m)
    (inv : p.Inv) (wire : p.OnWire log) : Par.Kept m (log ++ [x]) := by
  rcases takes with ⟨phase, rfl⟩ | ⟨phase, h⟩
  · exact Par.takeLen_kept x log inv phase
  · exact Par.takeBody_kept inv wire phase h

/-! ## The invariant of the machine -/

theorem State.Inv.rst {s : State} (hs : s.Inv) : s.rst.Inv where
  enc := Enc.reset_inv
  encWire := Enc.reset_onWire s.txlog
  par := Par.reset_inv
  parWire := Par.onWire_of_ne_body (by simp [Par.reset])
  events := fun ev hev => hs.events ev (List.mem_append_left _ (by simpa using hev))
  depth := holds_nil s.rspqDepth

theorem State.Inv.take {s : State} {x : RxItem} {p : Par} {ev? : Option Event} (hs : s.Inv) (rest : List RxItem)
    (kept : Par.Kept (p, ev?) (s.rxlog ++ [x])) : ((s.takeItem x rest).setPar p).Inv :=
  { hs with par := kept.inv, parWire := kept.wire }

theorem State.Inv.pop {s : State} {ev : Event} {rest : List Event} (hs : s.Inv) (queue : s.rspq = ev :: rest) :
    State.Inv { s with rspq := rest, popped := s.popped ++ [ev] } :=
  { hs with
    events := by simpa [queue] using hs.events
    depth := holds_tail (queue ▸ hs.depth) }

theorem Effect.keeps_inv {s t : State} (hs : s.Inv) (h : Effect s t) : t.Inv := by
  cases h with
  | quiet same => exact hs.of_sameBlock same
  | report ev room allowed => exact hs.respond room allowed
  | pop ev rest queue => exact hs.pop queue
  | start n _ small => exact hs.setEnc (Enc.start_inv small) (Enc.start_onWire small s.txlog)
  | push b phase empty =>
    exact hs.setEnc (Enc.push_inv b hs.enc phase) (Enc.push_onWire b hs.enc hs.encWire phase empty)
  | emitHigh phase empty =>
    exact hs.setEnc (Enc.emitHigh_inv hs.enc phase) (Enc.emitHigh_onWire hs.encWire phase empty)
  | emitLow phase empty => exact hs.setEnc (Enc.emitLow_inv hs.enc phase) (Enc.emitLow_onWire hs.encWire phase empty)
  | finish phase _ room =>
    obtain ⟨-, -, hlen, -⟩ := hs.enc
    exact (hs.setEnc Enc.reset_inv (Enc.reset_onWire s.txlog)).respond room (hlen (by simp [phase]))
  | accept b offered =>
    exact { hs with enc := Enc.accept_inv hs.enc, encWire := Enc.accept_onWire hs.encWire offered }
  | reject b sent _ count room =>
    have hsent := emitted_le count
    have := s.enc.len.isLt
    exact (hs.setEnc Enc.reset_inv (Enc.reset_onWire s.txlog)).respond room ⟨.inl rfl, by omega, by omega⟩
  | arm phase =>
    exact hs.setPar (Par.setPhase_inv hs.par (by simp [phase]) (by simp)) (Par.onWire_of_ne_body (by simp))
  | take x rest p takes => exact hs.take rest (takes.kept hs.par hs.parWire)
  | takeLast x rest p ev takes room =>
    have kept := takes.kept hs.par hs.parWire
    exact (hs.take rest kept).respond room (kept.event ev rfl)

/-- Settles O49: resets and all other effects keep the invariant. -/
theorem everyStepKeepsTheInvariant : Obligations.EveryStepKeepsTheInvariant := by
  intro s t hs h
  obtain ⟨u, same, ⟨-, rfl⟩ | ⟨-, effect⟩⟩ := step_cases h
  · exact (hs.of_sameBlock same).rst
  · exact effect.keeps_inv (hs.of_sameBlock same)

/-- Settles O48: the queue and the records are empty, and no unit is in a frame. -/
theorem resetKeepsTheInvariant : Obligations.ResetKeepsTheInvariant where
  enc := Enc.reset_inv
  encWire := Enc.reset_onWire []
  par := Par.reset_inv
  parWire := Par.onWire_of_ne_body (by simp [State.reset, Par.reset])
  events := fun ev hev => by simp [State.reset] at hev
  depth := holds_nil _

/-- Settles O1: each value is a field of `State.reset`. -/
theorem resetLeavesTheValuesOfR37 : Obligations.ResetLeavesTheValuesOfR37 :=
  ⟨rfl, rfl, rfl, rfl, rfl, rfl, rfl, rfl, rfl, rfl, rfl, rfl, rfl⟩

end Sys2Proof.Machine
end

section
/-! SUPPORT. Proofs of the statements about memory and isolation (20_memory.md): what running a code can change is said
once (`Ran`, `fire_cases`), and what a step makes of a unit is written as a function of that unit's own registers. -/

namespace Sys2Proof.Machine

/-! ## A code is the encoding of what it decodes to -/

theorem bare_ok {imm : Byte} {i j : Instr} (h : bare imm i = .ok j) : imm = 0 ∧ j = i := by
  unfold bare at h
  split at h
  · cases h; exact ⟨‹_›, rfl⟩
  · cases h

/-- The three fields of R71, side by side, are the word. -/
theorem fields_append (w : Word) : opField w ++ (rsvField w ++ immField w) = w := by
  simp only [opField, rsvField, immField, BitVec.extractLsb'_append_extractLsb'_eq_extractLsb',
    BitVec.extractLsb'_eq_self]

/-- OP and IMM8 around RSV = 0 are an encoding as R86 writes it. -/
theorem append_eq_commandWord (op : BitVec 4) (imm : Byte) :
    op ++ (0#4 ++ imm) = commandWord (op ++ 0#12) imm := by
  ext k hk
  simp only [commandWord, zext16, BitVec.getElem_append, BitVec.getElem_or, BitVec.getElem_zero,
    BitVec.truncate_eq_setWidth, BitVec.getElem_setWidth]
  by_cases low : k < 8
  · simp [low, Nat.lt_trans low (by decide : 8 < 12)]
  · simp [low, BitVec.getLsbD_of_ge imm k (not_lt.mp low)]

theorem eq_commandWord_of_op {w : Word} {n : Nat} (rsv : rsvField w = 0#4) (op : (opField w).toNat = n) :
    w = commandWord (BitVec.ofNat 4 n ++ 0#12) (immField w) := by
  rw [← op, BitVec.ofNat_toNat, BitVec.setWidth_eq, ← append_eq_commandWord, ← rsv]
  exact (fields_append w).symm

theorem encode_of_decodeWord {w : Word} {i : Instr} (h : decodeWord w = .ok i) : Code.cmd w = encode i := by
  unfold decodeWord at h
  split at h
  · cases h
  · split at h
    · cases h
    · rename_i rsv
      have rsv : rsvField w = 0#4 := not_not.mp rsv
      split at h
      case h_1 op | h_2 op | h_4 op | h_7 op | h_8 op =>
        obtain ⟨imm, rfl⟩ := bare_ok h
        rw [eq_commandWord_of_op rsv op, imm]; rfl
      case h_3 op | h_5 op | h_6 op =>
        cases h
        exact congrArg Code.cmd (eq_commandWord_of_op rsv op)
      case h_9 => cases h

theorem encode_of_decodeOpcode {b : Byte} {i : Instr} (h : decodeOpcode b = .ok i) : Code.frame b = encode i := by
  unfold decodeOpcode at h
  split_ifs at h <;> cases h <;> subst b <;> rfl

theorem encode_of_decode {c : Code} {i : Instr} (h : decode c = .ok i) : c = encode i := by
  cases c with
  | cmd w => exact encode_of_decodeWord h
  | frame b => exact encode_of_decodeOpcode h

/-! ## What running a code can change -/

/-- The changes that running the code `c` can make (R190 to R193): nothing, its own word held, an event, new contents of
one unit, or a longer script of the HOST. -/
inductive Ran (c : Code) (s : State) : State → Prop where
  | nothing : Ran c s s
  | held (w : Word) (own : c = .cmd w) : Ran c s (s.setPort (some w))
  | event (ev : Event) : Ran c s (s.respond ev)
  | ck (v : Word) : Ran c s (s.setCkAcc v)
  | enc (e : Enc) : Ran c s (s.setEnc e)
  | par (p : Par) : Ran c s (s.setPar p)
  | script (q : List HostAct) : Ran c s (s.setHostq q)

theorem respondOrHold_ran {w : Word} {ev : Event} {s t : State} (h : respondOrHold w ev s = .next t) :
    Ran (.cmd w) s t := by
  rcases respondOrHold_next h with ⟨-, rfl⟩ | ⟨-, rfl⟩
  · exact .held w rfl
  · exact .event ev

theorem raiseOrHold_ran {w : Word} {e : ErrInfo} {s t : State} (h : raiseOrHold w e s = .next t) :
    Ran (.cmd w) s t := by
  rcases raiseOrHold_next h with ⟨-, rfl⟩ | ⟨-, rfl⟩
  · exact .held w rfl
  · exact .event (.err e)

theorem execEncStart_ran {n : Byte} {s t : State} (h : execEncStart n s = .next t) :
    Ran (encode (.encStart n)) s t := by
  rcases execEncStart_next h with ⟨-, -, rfl⟩ | ⟨-, -, rfl⟩ | ⟨-, -, -, rfl⟩ | ⟨-, -, -, rfl⟩ | ⟨-, -, rfl⟩
  · exact .held _ rfl
  · exact .event _
  · exact .held _ rfl
  · exact .event _
  · exact .enc _

theorem execEncPush_ran {b : Byte} {s t : State} (h : execEncPush b s = .next t) :
    Ran (encode (.encPush b)) s t := by
  rcases execEncPush_next h with ⟨-, -, rfl⟩ | ⟨-, -, rfl⟩ | ⟨-, -, rfl⟩ | ⟨-, -, rfl⟩
  · exact .held _ rfl
  · exact .event _
  · exact .held _ rfl
  · exact .enc _

theorem execParStart_ran {s t : State} (h : execParStart s = .next t) : Ran (encode .parStart) s t := by
  rcases execParStart_next h with ⟨-, -, rfl⟩ | ⟨-, -, rfl⟩ | ⟨-, rfl⟩
  · exact .held _ rfl
  · exact .event _
  · exact .par _

theorem hostSends_ran {c : Code} {p : List Byte} {s t : State} (h : hostSends p s = .next t) : Ran c s t :=
  hostSends_next h ▸ .script _

theorem exec_ran {i : Instr} {s t : State} (h : exec i s = .next t) : Ran (encode i) s t := by
  cases i with
  | nop => cases h; exact .nothing
  | ckClr => cases h; exact .ck _
  | ckAdd b => cases h; exact .ck _
  | ckRd => exact respondOrHold_ran h
  | encStart n => exact execEncStart_ran h
  | encPush b => exact execEncPush_ran h
  | parStart => exact execParStart_ran h
  | statRd => exact respondOrHold_ran h
  | aimOn => exact hostSends_ran h
  | aimOff => exact hostSends_ran h
  | illuminationOn => exact hostSends_ran h
  | illuminationOff => exact hostSends_ran h
  | capabilitiesRequest => exact hostSends_ran h

theorem runCode_ran {c : Code} {s t : State} (h : runCode c s = .next t) : Ran c s t := by
  cases hd : decode c with
  | ok i => exact encode_of_decode hd ▸ exec_ran (runCode_of_decode hd s ▸ h)
  | error r =>
    cases c with
    | cmd w => exact raiseOrHold_ran (runCode_of_illegal hd s ▸ h)
    | frame b => simp [runCode, hd] at h

/-- A code that changes CK changes neither ENC nor PAR. -/
theorem Ran.ck_or_units {c : Code} {s t : State} (h : Ran c s t) : t.ck = s.ck ∨ (t.enc = s.enc ∧ t.par = s.par) := by
  cases h with
  | ck v => exact .inr ⟨rfl, rfl⟩
  | _ => exact .inl rfl

/-- A code takes nothing from the LINK. -/
theorem Ran.link {c : Code} {s t : State} (h : Ran c s t) : t.rxlog = s.rxlog ∧ t.linkRx = s.linkRx := by
  cases h <;> exact ⟨rfl, rfl⟩

/-- No word but the code's own comes to be held. -/
theorem Ran.port {c : Code} {s t : State} (h : Ran c s t) : t.port = s.port ∨ ∃ w, c = .cmd w ∧ t.port = some w := by
  cases h with
  | held w own => exact .inr ⟨w, own, rfl⟩
  | _ => exact .inl rfl

/-! ## What a step that runs no code can change -/

/-- The LINK's receive side from `s` to `t`: nothing was taken and more may have come, or the oldest item moved to RXLOG
(R157). -/
def State.LinkMoves (s t : State) : Prop :=
  (t.rxlog = s.rxlog ∧ ∃ more, t.linkRx = s.linkRx ++ more) ∨
  ∃ x rest, s.linkRx = x :: rest ∧ t.linkRx = rest ∧ t.rxlog = s.rxlog ++ [x]

theorem State.LinkMoves.of_eq {s t : State} (log : t.rxlog = s.rxlog) (link : t.linkRx = s.linkRx) : s.LinkMoves t :=
  .inl ⟨log, [], by simp [link]⟩

/-- What every step keeps that runs no code and is no reset: the presented word, CK, and the order of the LINK's items. -/
structure State.NoCode (s t : State) : Prop where
  port : t.port = s.port
  ck : t.ck = s.ck
  link : s.LinkMoves t

theorem State.NoCode.refl (s : State) : s.NoCode s := ⟨rfl, rfl, .of_eq rfl rfl⟩

theorem popStep_noCode {s t : State} (h : popStep s = .next t) : s.NoCode t := by
  rcases popStep_next h with ⟨-, rfl⟩ | ⟨ev, rest, -, rfl⟩
  · exact .refl t
  · exact ⟨rfl, rfl, .of_eq rfl rfl⟩

theorem encStep_noCode {s t : State} (h : encStep s = .next t) : s.NoCode t := by
  rcases encStep_next h with rfl | ⟨-, -, rfl⟩ | ⟨-, -, rfl⟩ | ⟨-, -, -, rfl⟩
  · exact .refl t
  all_goals exact ⟨rfl, rfl, .of_eq rfl rfl⟩

theorem txStep_noCode {a : TxAnswer} {s t : State} (h : txStep a s = .next t) : s.NoCode t := by
  rcases txStep_next h with rfl | ⟨b, -, -, rfl⟩ | ⟨b, sent, -, -, -, -, rfl⟩
  · exact .refl t
  all_goals exact ⟨rfl, rfl, .of_eq rfl rfl⟩

theorem rxStep_noCode {s t : State} (h : rxStep s = .next t) : s.NoCode t := by
  rcases rxStep_next h with rfl | ⟨x, rest, m, offered, -, ⟨-, rfl⟩ | ⟨ev, -, -, rfl⟩⟩
  · exact .refl t
  all_goals exact ⟨rfl, rfl, .inr ⟨x, rest, offered, rfl, rfl⟩⟩

/-- The code `c` may be run at the turn `τ`: the HOST issues it on a free port, or it is the word held there (R190). -/
def State.MayRun (s : State) (τ : Turn) (c : Code) : Prop :=
  s.port = none ∨ (τ = .port ∧ ∃ w, s.port = some w ∧ c = .cmd w)

/-- A held word is run with the port freed (R190). -/
theorem portStep_cases {s t : State} (h : portStep s = .next t) :
    (∃ c q, s.MayRun .port c ∧ Ran c ((s.setHostq q).setPort none) t) ∨ s.NoCode t := by
  unfold portStep at h
  split at h
  · exact .inr (notEnabled_next h ▸ .refl s)
  · rename_i w held
    exact .inl ⟨.cmd w, s.hostq, .inr ⟨rfl, w, held, rfl⟩, runCode_ran h⟩

theorem hostStep_cases {s t : State} (noReset : s.hostq.head? ≠ some .rst) (h : hostStep s = .next t) :
    (∃ c q, s.MayRun .host c ∧ Ran c ((s.setHostq q).setPort none) t) ∨ s.NoCode t := by
  rcases hostStep_next h with rfl | ⟨c, later, -, free, h⟩ | ⟨a, later, q, -, -, h⟩ | ⟨later, hq, -⟩
  · exact .inr (.refl t)
  · have same : s.setHostq later = (s.setHostq later).setPort none := by simp [State.setPort, State.setHostq, free]
    rw [same] at h
    exact .inl ⟨c, later, .inl free, runCode_ran h⟩
  · obtain ⟨port, ck, link⟩ := popStep_noCode h
    exact .inr ⟨port, ck, link⟩
  · exact absurd (by rw [hq]; rfl) noReset

/-- A fired step that is no reset runs a code with the port freed, or it runs none. -/
theorem fire_cases {τ : Turn} {s t : State} (noReset : ¬ s.ResetBy τ) (h : fire τ s = .next t) :
    (∃ c q, s.MayRun τ c ∧ Ran c ((s.setHostq q).setPort none) t) ∨ s.NoCode t := by
  cases τ with
  | host => exact hostStep_cases (fun hq => noReset (.inr ⟨rfl, hq⟩)) h
  | port => exact portStep_cases h
  | pop => exact .inr (popStep_noCode h)
  | rst => exact absurd (.inl rfl) noReset
  | enc => exact .inr (encStep_noCode h)
  | tx a => exact .inr (txStep_noCode h)
  | rx => exact .inr (rxStep_noCode h)
  | plan a => cases h; exact .inr ⟨rfl, rfl, .of_eq rfl rfl⟩
  | arrive x => cases h; exact .inr ⟨rfl, rfl, .inl ⟨rfl, [x], rfl⟩⟩

theorem State.NoCode.of_dropTurn {s t : State} (h : s.dropTurn.NoCode t) : s.NoCode t where
  port := by simpa using h.port
  ck := by simpa using h.ck
  link := by simpa [State.LinkMoves] using h.link

/-- A step that is no reset runs a code with the port freed, or it runs none. -/
theorem step_code_cases {s t : State} (noReset : ¬ s.ResetBy s.nextTurn) (h : step s = .next t) :
    (∃ c q, s.MayRun s.nextTurn c ∧ Ran c ((s.dropTurn.setHostq q).setPort none) t) ∨ s.NoCode t := by
  have hdrop : ¬ s.dropTurn.ResetBy s.nextTurn := by simpa [State.ResetBy] using noReset
  rcases fire_cases hdrop h with ⟨c, q, may, ran⟩ | noCode
  · exact .inl ⟨c, q, by simpa [State.MayRun] using may, ran⟩
  · exact .inr noCode.of_dropTurn

/-! ## At most one unit changes -/

theorem step_ck_or_units {s t : State} (noReset : ¬ s.ResetBy s.nextTurn) (h : step s = .next t) :
    t.ck = s.ck ∨ (t.enc = s.enc ∧ t.par = s.par) := by
  rcases step_code_cases noReset h with ⟨c, q, -, ran⟩ | noCode
  · simpa using ran.ck_or_units
  · exact .inl noCode.ck

theorem Effect.enc_or_par {s t : State} (h : Effect s t) : t.enc = s.enc ∨ t.par = s.par := by
  cases h with
  | quiet same => exact .inl same.enc
  | arm | take | takeLast => exact .inl rfl
  | _ => exact .inr rfl

theorem step_enc_or_par {s t : State} (noReset : ¬ s.ResetBy s.nextTurn) (h : step s = .next t) :
    t.enc = s.enc ∨ t.par = s.par := by
  obtain ⟨u, same, ⟨resets, -⟩ | ⟨-, effect⟩⟩ := step_cases h
  · exact absurd resets noReset
  · exact same.enc ▸ same.par ▸ effect.enc_or_par

/-- Settles O53: CK changes only while ENC and PAR stay, and ENC and PAR do not change together. -/
theorem stepTouchesAtMostOneUnit : Obligations.StepTouchesAtMostOneUnit := by
  intro s t h turn host
  have noReset : ¬ s.ResetBy s.nextTurn := by
    rintro (hturn | ⟨hturn, hq⟩)
    · exact turn hturn
    · exact host hturn hq
  rcases step_ck_or_units noReset h with ck | units
  · rcases step_enc_or_par noReset h with enc | par
    · exact .inr (.inr ⟨ck, enc⟩)
    · exact .inr (.inl ⟨ck, par⟩)
  · exact .inl units

/-! ## The wire -/

/-- R132: TXLOG gains a byte only when the LINK accepts it from ENC.obuf. -/
theorem Effect.txlog {s t : State} (h : Effect s t) :
    t.txlog = s.txlog ∨ ∃ b, s.enc.obuf = some b ∧ t.enc.obuf = none ∧ t.txlog = s.txlog ++ [b] := by
  cases h with
  | quiet same => exact .inl same.txlog
  | accept b offered => exact .inr ⟨b, offered, rfl, rfl⟩
  | _ => exact .inl rfl

theorem fire_resetBy_link {τ : Turn} {s t : State} (resets : s.ResetBy τ) (h : fire τ s = .next t) :
    t.rxlog = s.rxlog ∧ t.linkRx = s.linkRx := by
  rcases resets with rfl | ⟨rfl, hq⟩
  · cases h; exact ⟨rfl, rfl⟩
  · obtain ⟨later, hq⟩ := List.head?_eq_some_iff.mp hq
    simp only [fire, hostStep, hq] at h
    cases h; exact ⟨rfl, rfl⟩

theorem step_link {s t : State} (h : step s = .next t) : s.LinkMoves t := by
  by_cases resets : s.ResetBy s.nextTurn
  · have hdrop : s.dropTurn.ResetBy s.nextTurn := by simpa [State.ResetBy] using resets
    obtain ⟨log, link⟩ := fire_resetBy_link hdrop h
    exact .of_eq (by simpa using log) (by simpa using link)
  · rcases step_code_cases resets h with ⟨c, q, -, ran⟩ | noCode
    · obtain ⟨log, link⟩ := ran.link
      exact .of_eq (by simpa using log) (by simpa using link)
    · exact noCode.link

/-- Settles O55: a reset keeps the records, an accepted byte comes from ENC.obuf, and a taken item from the LINK. -/
theorem wireRecordsOnlyGrow : Obligations.WireRecordsOnlyGrow := by
  intro s t h
  refine ⟨?_, step_link h⟩
  obtain ⟨u, same, ⟨-, rfl⟩ | ⟨-, effect⟩⟩ := step_cases h
  · exact .inl same.txlog
  · exact same.txlog ▸ same.enc ▸ effect.txlog

/-! ## The command port -/

/-- Settles O56: only the port's own step runs a code while a word is presented, and that code is the word. -/
theorem heldWordStaysPresented : Obligations.HeldWordStaysPresented := by
  intro s t w held h
  by_cases resets : s.ResetBy s.nextTurn
  · obtain ⟨u, -, ⟨-, rfl⟩ | ⟨noReset, -⟩⟩ := step_cases h
    · exact .inr ⟨rfl, .inr resets⟩
    · exact absurd resets noReset
  rcases step_code_cases resets h with ⟨c, q, free | ⟨turn, w', held', rfl⟩, ran⟩ | noCode
  · simp [held] at free
  · obtain rfl : w = w' := by simpa [held] using held'
    rcases ran.port with port | ⟨v, own, port⟩
    · exact .inr ⟨port, .inl turn⟩
    · cases own; exact .inl port
  · exact .inl (noCode.port.trans held)

/-! ## What a step makes of a unit, from that unit alone -/

/-- CK after the command `i` (R106, R107). -/
def Ck.after (i : Instr) (k : Ck) : Ck :=
  match i with
  | .ckClr => { acc := 0x0000 }
  | .ckAdd b => { acc := accumulate k.acc b }
  | _ => k

/-- ENC after the command `i` (R126, R128). -/
def Enc.after (i : Instr) (e : Enc) : Enc :=
  match i with
  | .encStart n => if e.phase = .idle ∧ n ≠ 255 then Enc.start n else e
  | .encPush b => if e.phase = .payload ∧ e.obuf = none then e.push b else e
  | _ => e

/-- PAR after the command `i` (R158). -/
def Par.after (i : Instr) (p : Par) : Par :=
  match i with
  | .parStart => if p.phase = .idle then { p with phase := .len } else p
  | _ => p

/-- Each of the units after the command `i` is a function of what it was. -/
structure UnitsAfter (i : Instr) (s t : State) : Prop where
  ck : t.ck = s.ck.after i
  enc : t.enc = s.enc.after i
  par : t.par = s.par.after i

theorem respondOrHold_units {w : Word} {ev : Event} {s t : State} (h : respondOrHold w ev s = .next t) :
    t.ck = s.ck ∧ t.enc = s.enc ∧ t.par = s.par := by
  rcases respondOrHold_next h with ⟨-, rfl⟩ | ⟨-, rfl⟩ <;> exact ⟨rfl, rfl, rfl⟩

theorem execEncStart_units {n : Byte} {s t : State} (h : execEncStart n s = .next t) :
    UnitsAfter (.encStart n) s t := by
  rcases execEncStart_next h with ⟨busy, -, rfl⟩ | ⟨busy, -, rfl⟩ | ⟨-, big, -, rfl⟩ | ⟨-, big, -, rfl⟩ |
    ⟨idle, small, rfl⟩
  · exact ⟨rfl, by simp [Enc.after, busy], rfl⟩
  · exact ⟨rfl, by simp [Enc.after, busy], rfl⟩
  · exact ⟨rfl, by simp [Enc.after, big], rfl⟩
  · exact ⟨rfl, by simp [Enc.after, big], rfl⟩
  · exact ⟨rfl, (if_pos ⟨idle, small⟩).symm, rfl⟩

theorem execEncPush_units {b : Byte} {s t : State} (h : execEncPush b s = .next t) :
    UnitsAfter (.encPush b) s t := by
  rcases execEncPush_next h with ⟨wrong, -, rfl⟩ | ⟨wrong, -, rfl⟩ | ⟨-, waiting, rfl⟩ | ⟨phase, empty, rfl⟩
  · exact ⟨rfl, by simp [Enc.after, wrong], rfl⟩
  · exact ⟨rfl, by simp [Enc.after, wrong], rfl⟩
  · exact ⟨rfl, by simp [Enc.after, waiting], rfl⟩
  · exact ⟨rfl, by simp [Enc.after, phase, empty], rfl⟩

theorem execParStart_units {s t : State} (h : execParStart s = .next t) : UnitsAfter .parStart s t := by
  rcases execParStart_next h with ⟨busy, -, rfl⟩ | ⟨busy, -, rfl⟩ | ⟨idle, rfl⟩
  · exact ⟨rfl, rfl, by simp [Par.after, busy]⟩
  · exact ⟨rfl, rfl, by simp [Par.after, busy]⟩
  · exact ⟨rfl, rfl, by simp [Par.after, idle]⟩

theorem exec_units {i : Instr} {s t : State} (h : exec i s = .next t) : UnitsAfter i s t := by
  cases i with
  | ckRd => obtain ⟨ck, enc, par⟩ := respondOrHold_units h; exact ⟨ck, enc, par⟩
  | statRd => obtain ⟨ck, enc, par⟩ := respondOrHold_units h; exact ⟨ck, enc, par⟩
  | encStart n => exact execEncStart_units h
  | encPush b => exact execEncPush_units h
  | parStart => exact execParStart_units h
  | _ => cases h; exact ⟨rfl, rfl, rfl⟩

/-- ENC after its internal step, with RSPQ full or not (R129 to R131). -/
def Enc.internal (e : Enc) (full : Bool) : Enc :=
  match e.obuf, e.phase with
  | none, .ckHi => e.emitHigh
  | none, .ckLo => e.emitLow
  | none, .drain => if full then e else Enc.reset
  | _, _ => e

theorem encStep_enc {s t : State} (h : encStep s = .next t) : t.enc = s.enc.internal s.full := by
  unfold encStep at h
  split at h
  case h_1 b waiting => cases h; simp [Enc.internal, waiting]
  case h_2 empty =>
    split at h
    case h_5 phase =>
      split at h
      case isTrue full => cases h; simp [Enc.internal, empty, phase, full]
      case isFalse room => cases h; simp [Enc.internal, empty, phase, room]
    all_goals
      rename_i phase
      cases h
      simp [Enc.internal, empty, phase]

/-- ENC after the LINK's answer `a`, with RSPQ full or not (R132, R133). -/
def Enc.answered (a : TxAnswer) (e : Enc) (full : Bool) : Enc :=
  match e.obuf, a with
  | none, _ => e
  | some _, .accept => { e with obuf := none }
  | some _, .reject => if full then e else Enc.reset

theorem txStep_enc {a : TxAnswer} {s t : State} (h : txStep a s = .next t) : t.enc = s.enc.answered a s.full := by
  unfold txStep at h
  split at h
  case h_1 empty => cases h; simp [Enc.answered, empty]
  case h_2 b offered =>
    split at h
    case h_1 => cases h; simp [Enc.answered, offered]
    case h_2 =>
      split at h
      case h_1 =>
        split at h
        case isTrue full => cases h; simp [Enc.answered, offered, full]
        case isFalse room => cases h; simp [Enc.answered, offered, room]
      case h_2 => cases h

/-- PAR moves to `m.1` unless the step's event finds no room (R157). -/
def Par.settle (p : Par) (full : Bool) (m : Par × Option Event) : Par :=
  if m.2.isSome ∧ full then p else m.1

theorem parTakes_par {x : RxItem} {rest : List RxItem} {m : Par × Option Event} {s t : State}
    (h : parTakes x rest m.1 m.2 s = .next t) : t.par = s.par.settle s.full m := by
  unfold parTakes at h
  split at h
  case h_1 quiet => cases h; simp [Par.settle, quiet]
  case h_2 ev reports =>
    split at h
    case isTrue full => cases h; simp [Par.settle, reports, full]
    case isFalse room => cases h; simp [Par.settle, reports, room]

/-- PAR after its RX step with the items of the LINK, with RSPQ full or not (R157 to R162). A step that faults answers no
next state, and the value given for it here says nothing. -/
def Par.received (p : Par) (items : List RxItem) (full : Bool) : Par :=
  match items, p.phase with
  | x :: _, .len => p.settle full (p.takeLen x)
  | x :: _, .body =>
    match p.takeBody x with
    | .ok m => p.settle full m
    | .error _ => p
  | _, _ => p

theorem rxStep_par {s t : State} (h : rxStep s = .next t) : t.par = s.par.received s.linkRx s.full := by
  unfold rxStep at h
  split at h
  case h_1 nothing => cases h; simp [Par.received, nothing]
  case h_2 x rest offered =>
    split at h
    case h_1 phase => cases h; simp [Par.received, offered, phase]
    case h_2 phase => simpa [Par.received, offered, phase] using parTakes_par h
    case h_3 phase =>
      split at h
      case h_1 m takes => simpa [Par.received, offered, phase, takes] using parTakes_par h
      case h_2 => cases h

/-- Settles O54: what a step makes of a unit is a function of that unit, of its stream and of RSPQ being full. -/
theorem unitsDoNotSeeEachOther : Obligations.UnitsDoNotSeeEachOther := by
  intro s1 s2 t1 t2 full
  refine ⟨fun i h1 h2 => ?_, fun enc h1 h2 => ?_, fun a enc h1 h2 => ?_, fun par link h1 h2 => ?_⟩
  · have u1 := exec_units h1
    have u2 := exec_units h2
    refine ⟨fun ck => ?_, fun enc => ?_, fun par => ?_⟩
    · rw [u1.ck, u2.ck, ck]
    · rw [u1.enc, u2.enc, enc]
    · rw [u1.par, u2.par, par]
  · rw [encStep_enc h1, encStep_enc h2, enc, full]
  · rw [txStep_enc h1, txStep_enc h2, enc, full]
  · rw [rxStep_par h1, rxStep_par h2, par, link, full]

end Sys2Proof.Machine
end

section
/-! SUPPORT. Proofs of the statements about the encodings (30_encoding.md): decode and encode are inverse to each other, so
that the legal command words are the encodings of the commands (R72 to R77, R86, R89); and what the HOST's script actions
that have no encoding do (R86, R87). -/

namespace Sys2Proof

open Machine

/-! ## Decode and encode -/

/-- Settles O5: an operand comes back from IMM8, and every other code is a constant of the table. -/
theorem decodeOfEncodeIsTheInstruction : Obligations.DecodeOfEncodeIsTheInstruction := by
  intro i
  cases i with
  | ckAdd b => exact (decodeWord_ckAddWord b).2
  | encStart n => exact (decodeWord_encStartWord n).2
  | encPush b => exact (decodeWord_encPushWord b).2
  | nop | ckClr | ckRd | parStart | statRd => decide
  | aimOn | aimOff | illuminationOn | illuminationOff | capabilitiesRequest => decide

/-- Settles O6: the fields of an accepted word, put together again, are the word. -/
theorem encodeOfDecodeIsTheCode : Obligations.EncodeOfDecodeIsTheCode :=
  fun _ _ h => (encode_of_decode h).symm

theorem decode_eq_ok_iff (c : Code) (i : Instr) : decode c = .ok i ↔ c = encode i :=
  ⟨encode_of_decode, fun h => h ▸ decodeOfEncodeIsTheInstruction i⟩

theorem encode_injective : Function.Injective encode := fun i j h => by
  simpa [decodeOfEncodeIsTheInstruction i, decodeOfEncodeIsTheInstruction j] using congrArg decode h

/-! ## Which words are legal (R74 to R77) -/

theorem encode_wellFormed : ∀ i : Instr, (encode i).wellFormed = true
  | .nop => Laws.EncodeWellFormed.nop
  | .ckClr => Laws.EncodeWellFormed.ckClr
  | .ckAdd b => Laws.EncodeWellFormed.ckAdd b
  | .ckRd => Laws.EncodeWellFormed.ckRd
  | .encStart n => Laws.EncodeWellFormed.encStart n
  | .encPush b => Laws.EncodeWellFormed.encPush b
  | .parStart => Laws.EncodeWellFormed.parStart
  | .statRd => Laws.EncodeWellFormed.statRd
  | .aimOn => Laws.EncodeWellFormed.aimOn
  | .aimOff => Laws.EncodeWellFormed.aimOff
  | .illuminationOn => Laws.EncodeWellFormed.illuminationOn
  | .illuminationOff => Laws.EncodeWellFormed.illuminationOff
  | .capabilitiesRequest => Laws.EncodeWellFormed.capabilitiesRequest

/-- The well-formedness check and the decoder accept the same command words. -/
theorem decodeWord_ok_iff_wordLegal (w : Word) : (∃ i, decodeWord w = .ok i) ↔ wordLegal w = true := by
  constructor
  · rintro ⟨i, h⟩
    have legal := encode_wellFormed i
    rwa [← encode_of_decodeWord h] at legal
  · intro legal
    cases h : decodeWord w with
    | ok i => exact ⟨i, rfl⟩
    | error r => rw [wordLegal_of_rejected h] at legal; cases legal

theorem opField_toNat (w : Word) : (opField w).toNat = w.toNat / 4096 % 16 := by
  simp [opField, BitVec.extractLsb'_toNat, Nat.shiftRight_eq_div_pow]

/-- Bit 15 of a word is the high bit of OP (R71). -/
theorem msb_eq_false_iff_opField_lt (w : Word) : w.msb = false ↔ (opField w).toNat < 8 := by
  have hw := w.isLt
  rw [BitVec.msb_eq_false_iff_two_mul_lt, opField_toNat]
  omega

theorem noOperand_iff (op : BitVec 4) : noOperand op = true ↔ op ∈ [0x0#4, 0x1#4, 0x3#4, 0x6#4, 0x7#4] := by
  simp [noOperand, or_assoc]

/-- The three conditions of the well-formedness check, by the fields of the word. -/
theorem wordLegal_iff (w : Word) : wordLegal w = true ↔ (opField w).toNat < 8 ∧ rsvField w = 0 ∧
    (opField w ∈ [0x0#4, 0x1#4, 0x3#4, 0x6#4, 0x7#4] → immField w = 0) := by
  rw [← noOperand_iff, ← msb_eq_false_iff_opField_lt]
  simp [wordLegal, and_assoc, imp_iff_not_or]

/-- Settles O3: the decoder accepts the legal words, and a word is legal by its three fields. -/
theorem wordDecodesExactlyWhenLegal : Obligations.WordDecodesExactlyWhenLegal := by
  intro w
  rw [decodeWord_ok_iff_wordLegal, wordLegal_iff]
  simp only [not_or, not_le, not_and, ne_eq, not_not]

/-! ## How many words are legal (R77) -/

/-- Every byte, once. -/
def allBytes : List Byte := (List.range 256).map (BitVec.ofNat 8)

theorem mem_allBytes (b : Byte) : b ∈ allBytes :=
  List.mem_map.mpr ⟨b.toNat, List.mem_range.mpr b.isLt, by rw [BitVec.ofNat_toNat, BitVec.setWidth_eq]⟩

theorem ofNat_inj_of_lt {w m n : Nat} (hm : m < 2 ^ w) (hn : n < 2 ^ w) (h : BitVec.ofNat w m = BitVec.ofNat w n) :
    m = n := by
  simpa [Nat.mod_eq_of_lt hm, Nat.mod_eq_of_lt hn] using congrArg BitVec.toNat h

theorem nodup_allBytes : allBytes.Nodup :=
  List.nodup_range.map_on fun _ hm _ hn => ofNat_inj_of_lt (w := 8) (List.mem_range.mp hm) (List.mem_range.mp hn)

/-- Every instruction that is a command word (R72), once. -/
def commands : List Instr :=
  [.nop, .ckClr, .ckRd, .parStart, .statRd] ++
    (allBytes.map .ckAdd ++ (allBytes.map .encStart ++ allBytes.map .encPush))

theorem length_commands : commands.length = 773 := by
  simp [commands, allBytes]

theorem mem_commands_iff (i : Instr) : i ∈ commands ↔ ∃ w, encode i = .cmd w := by
  cases i <;> simp [commands, encode, mem_allBytes]

theorem nodup_commands : commands.Nodup := by
  have operands {f : Byte → Instr} (hf : Function.Injective f) : (allBytes.map f).Nodup := nodup_allBytes.map hf
  have ckAdd := operands (f := .ckAdd) fun _ _ h => Instr.ckAdd.inj h
  have encStart := operands (f := .encStart) fun _ _ h => Instr.encStart.inj h
  have encPush := operands (f := .encPush) fun _ _ h => Instr.encPush.inj h
  simp [commands, List.nodup_append, or_imp, forall_and, ckAdd, encStart, encPush]

/-- The numbers of the legal command words. -/
def legalNumbers : List Nat := (List.range 65536).filter fun n => wordLegal (BitVec.ofNat 16 n)

theorem mem_legalNumbers_iff (n : Nat) : n ∈ legalNumbers ↔ n < 2 ^ 16 ∧ wordLegal (BitVec.ofNat 16 n) = true := by
  simp only [legalNumbers, List.mem_filter, List.mem_range, Nat.reducePow]

/-- The legal command words, as codes. -/
def legalCodes : List Code := legalNumbers.map fun n => .cmd (BitVec.ofNat 16 n)

theorem mem_legalCodes_iff (c : Code) : c ∈ legalCodes ↔ ∃ w, wordLegal w = true ∧ c = .cmd w := by
  simp only [legalCodes, List.mem_map, mem_legalNumbers_iff]
  constructor
  · rintro ⟨n, ⟨-, legal⟩, rfl⟩
    exact ⟨_, legal, rfl⟩
  · rintro ⟨w, legal, rfl⟩
    exact ⟨w.toNat, ⟨w.isLt, by simpa using legal⟩, by simp⟩

theorem nodup_legalCodes : legalCodes.Nodup := by
  refine (List.nodup_range.filter _).map_on fun m hm n hn h => ?_
  have hm := ((mem_legalNumbers_iff m).mp hm).1
  have hn := ((mem_legalNumbers_iff n).mp hn).1
  exact ofNat_inj_of_lt hm hn (Code.cmd.inj h)

/-- The legal command words are the encodings of the commands, each of them once. -/
theorem legalCodes_perm_commands : legalCodes.Perm (commands.map encode) := by
  rw [List.perm_ext_iff_of_nodup nodup_legalCodes (nodup_commands.map encode_injective)]
  intro c
  rw [mem_legalCodes_iff, List.mem_map]
  constructor
  · rintro ⟨w, legal, rfl⟩
    obtain ⟨i, h⟩ := (decodeWord_ok_iff_wordLegal w).mpr legal
    exact ⟨i, (mem_commands_iff i).mpr ⟨w, (encode_of_decodeWord h).symm⟩, (encode_of_decodeWord h).symm⟩
  · rintro ⟨i, command, rfl⟩
    obtain ⟨w, h⟩ := (mem_commands_iff i).mp command
    have legal := encode_wellFormed i
    rw [h] at legal
    exact ⟨w, legal, h⟩

/-- Settles O7: the legal words stand one to one to the commands, five without an operand and three with a byte each. -/
theorem exactly773WordsAreLegal : Obligations.Exactly773WordsAreLegal := by
  have h := legalCodes_perm_commands.length_eq
  rwa [legalCodes, List.length_map, List.length_map, length_commands] at h

/-! ## Sample words (R71, R72, R181) -/

/-- Bits that are the encoding of an instruction decode to it. -/
theorem decodeTableWord_of_encode {nbits w : Nat} {i : Instr} (h : codeOfBits nbits w = some (encode i)) :
    decodeTableWord nbits w = some i := by
  simp [decodeTableWord, h, decodeOfEncodeIsTheInstruction i, Except.toOption]

/-- Settles O8: each sample is the encoding of its instruction, and OP = 8 is reserved. -/
theorem sampleWordsDecode : Obligations.SampleWordsDecode :=
  ⟨decodeTableWord_of_encode rfl, decodeTableWord_of_encode rfl, decodeTableWord_of_encode rfl,
   decodeTableWord_of_encode rfl, decodeTableWord_of_encode rfl, decodeTableWord_of_encode rfl,
   decodeTableWord_of_encode rfl, decodeTableWord_of_encode rfl, by decide⟩

/-! ## The assembler's line (R86) -/

/-- The instruction a mnemonic names, with `b` as the operand where it takes one. -/
def Mnemonic.instr (b : Byte) : Mnemonic → Instr
  | .NOP => .nop
  | .CK_CLR => .ckClr
  | .CK_ADD => .ckAdd b
  | .CK_RD => .ckRd
  | .ENC_START => .encStart b
  | .ENC_PUSH => .encPush b
  | .PAR_START => .parStart
  | .STAT_RD => .statRd

/-- `match | imm` is the encoding of the mnemonic's instruction, with IMM8 = 0 where it takes no operand. -/
theorem encode_instr {m : Mnemonic} {b : Byte} (bare : m.takesOperand = false → b = 0) :
    encode (m.instr b) = .cmd (commandWord m.matchBits b) := by
  cases m with
  | CK_ADD | ENC_START | ENC_PUSH => rfl
  | NOP | CK_CLR | CK_RD | PAR_START | STAT_RD => rw [bare rfl]; rfl

/-- A well-formed line is assembled with a byte in IMM8: its operand, or 0 where it has none. -/
theorem assemble_of_wellFormed {l : AsmLine} (wf : l.wellFormed = true) :
    ∃ b : Byte, assemble l = some (commandWord l.mnemonic.matchBits b) ∧
      (l.mnemonic.takesOperand = false → b = 0) ∧ (l.mnemonic.takesOperand = true → l.operand = some b.toNat) := by
  refine ⟨BitVec.ofNat 8 (l.operand.getD 0), by rw [assemble, if_pos wf], ?_⟩
  obtain ⟨m, operand⟩ := l
  simp only [AsmLine.wellFormed, Bool.and_eq_true, beq_iff_eq] at wf
  obtain ⟨stands, small⟩ := wf
  cases operand with
  | none => exact ⟨fun _ => rfl, fun takes => by simp [takes] at stands⟩
  | some n =>
    have small : n ≤ 255 := by simpa using small
    refine ⟨fun bare => by simp [bare] at stands, fun _ => ?_⟩
    rw [Option.getD_some, BitVec.toNat_ofNat, Nat.mod_eq_of_lt (by omega)]

/-- Settles O9: the assembler writes the encoding of the instruction that the line names. -/
theorem assembledLineDecodesToItself : Obligations.AssembledLineDecodesToItself := by
  intro l wf
  obtain ⟨b, assembled, bare, operand⟩ := assemble_of_wellFormed wf
  have decoded : decode (.cmd (commandWord l.mnemonic.matchBits b)) = .ok (l.mnemonic.instr b) :=
    (decode_eq_ok_iff _ _).mpr (encode_instr bare).symm
  refine ⟨_, l.mnemonic.instr b, assembled, decoded, ?_⟩
  cases h : l.mnemonic with
  | CK_ADD | ENC_START | ENC_PUSH => exact operand (by rw [h]; rfl)
  | NOP | CK_CLR | CK_RD | PAR_START | STAT_RD => trivial

end Sys2Proof

namespace Sys2Proof.Machine

/-! ## The HOST's script actions (R86, R87) -/

theorem popStep_of_cons {s : State} {ev : Event} {rest : List Event} (queue : s.rspq = ev :: rest) :
    popStep s = .next { s with rspq := rest, popped := s.popped ++ [ev] } := by
  rw [popStep, queue]

theorem waitEnds_iff (k : EventKind) (ev : Event) : waitEnds k ev = true ↔ ev.kind = k ∨ ∃ e, ev = .err e := by
  cases ev <;> simp [waitEnds, Event.kind]

theorem hostStep_of_rst {s : State} {later : List HostAct} (script : s.hostq = .rst :: later) :
    hostStep s = .next (s.setHostq later).rst := by
  rw [hostStep, script]

/-- A POP or a WAIT does nothing while RSPQ is empty (R196). -/
theorem hostStep_of_empty {s : State} {a : HostAct} {later : List HostAct} (script : s.hostq = a :: later)
    (awaits : a = .pop ∨ ∃ k, a = .wait k) (empty : s.rspq = []) : hostStep s = .next s := by
  rcases awaits with rfl | ⟨k, rfl⟩ <;> simp only [hostStep, script, empty, notEnabled]

theorem hostStep_of_pop {s : State} {later : List HostAct} {ev : Event} {rest : List Event}
    (script : s.hostq = .pop :: later) (queue : s.rspq = ev :: rest) : hostStep s = popStep (s.setHostq later) := by
  simp only [hostStep, script, queue]

/-- A WAIT pops one event, and leaves the script when the event ends it (R87; log entry 9). -/
theorem hostStep_of_wait {s : State} {k : EventKind} {later : List HostAct} {ev : Event} {rest : List Event}
    (script : s.hostq = .wait k :: later) (queue : s.rspq = ev :: rest) :
    hostStep s = if waitEnds k ev then popStep (s.setHostq later) else popStep s := by
  simp only [hostStep, script, queue]

/-- Settles O15: a POP, and a WAIT with an event to look at, are the POP step on the script that they leave. -/
theorem hostActionsPopResetAndWait : Obligations.HostActionsPopResetAndWait := by
  intro s k later
  refine ⟨hostStep_of_rst, fun script => ⟨hostStep_of_empty script (.inl rfl), fun ev rest queue => ?_⟩,
    fun script => ⟨hostStep_of_empty script (.inr ⟨k, rfl⟩), fun ev rest queue ends => ?_,
      fun ev rest queue otherKind noError => ?_⟩⟩
  · rw [fire, hostStep_of_pop script queue]
    exact popStep_of_cons queue
  · rw [fire, hostStep_of_wait script queue, if_pos ((waitEnds_iff k ev).mpr ends)]
    exact popStep_of_cons queue
  · have goesOn : ¬ waitEnds k ev = true := fun ends =>
      ((waitEnds_iff k ev).mp ends).elim otherKind fun ⟨e, h⟩ => noError e h
    rw [fire, hostStep_of_wait script queue, if_neg goesOn]
    exact popStep_of_cons queue

end Sys2Proof.Machine
end

section
/-! SUPPORT. Proofs of the statements about the checksum (40_checksum.md): the sum of a byte sequence in numbers and in the
ring of 16-bit words, the three commands of CK, and what CK holds after any interleaving (R100 to R110). -/

namespace Sys2Proof.Machine

/-! ## Words that are no command (R192) -/

/-- Running an illegal word raises IllegalCommand, whatever makes it illegal. -/
theorem runCode_of_not_wordLegal {w : Word} (illegal : wordLegal w = false) (s : State) :
    runCode (.cmd w) s = raiseIllegal w s := by
  cases h : decode (.cmd w) with
  | ok i => simp [(decodeWord_ok_iff_wordLegal w).mp ⟨i, h⟩] at illegal
  | error r => exact runCode_of_illegal h s

/-- R74: a word whose RSV is not 0 is illegal. -/
theorem runCode_of_rsv {w : Word} (rsv : rsvField w ≠ 0) (s : State) : runCode (.cmd w) s = raiseIllegal w s := by
  refine runCode_of_not_wordLegal (Bool.eq_false_of_not_eq_true fun legal => ?_) s
  obtain ⟨-, zero, -⟩ := (wordLegal_iff w).mp legal
  exact rsv zero

/-- R74, R75: an operation without an operand has one legal word, OP followed by zeros. -/
theorem eq_op_of_wordLegal {w : Word} (bareOp : noOperand (opField w) = true) (legal : wordLegal w = true) :
    w = opField w ++ 0#12 := by
  obtain ⟨-, rsv, imm⟩ := (wordLegal_iff w).mp legal
  calc w = opField w ++ (rsvField w ++ immField w) := (fields_append w).symm
    _ = opField w ++ 0#12 := by rw [rsv, imm ((noOperand_iff _).mp bareOp)]; rfl

/-- Every other word with the OP of such an operation is illegal. -/
theorem runCode_of_bare_op {w : Word} {op : BitVec 4} (hop : opField w = op) (bareOp : noOperand op = true)
    (other : w ≠ op ++ 0#12) (s : State) : runCode (.cmd w) s = raiseIllegal w s := by
  subst hop
  exact runCode_of_not_wordLegal (Bool.eq_false_of_not_eq_true (mt (eq_op_of_wordLegal bareOp) other)) s

/-! ## Responses (R31, R193) -/

theorem respondOrHold_of_room {s : State} (room : s.full = false) (w : Word) (ev : Event) :
    respondOrHold w ev s = .next (s.respond ev) := by
  simp [respondOrHold, room]

theorem respondOrHold_of_full {s : State} (full : s.full = true) (w : Word) (ev : Event) :
    respondOrHold w ev s = .next (s.setPort (some w)) := by
  simp [respondOrHold, full, hold]

/-! ## Accumulators in numbers (R103) -/

@[simp] theorem zext16_toNat (b : Byte) : (zext16 b).toNat = b.toNat := by
  simpa [zext16] using Nat.mod_eq_of_lt (Nat.lt_trans b.isLt (by decide : 2 ^ 8 < 65536))

theorem accumulate_toNat (acc : Word) (b : Byte) : (accumulate acc b).toNat = (acc.toNat + b.toNat) % 65536 := by
  simp [accumulate, BitVec.toNat_add]

theorem checksumOf_toNat (acc : Word) : (checksumOf acc).toNat = (65536 - acc.toNat) % 65536 := by
  simp [checksumOf, BitVec.toNat_neg]

/-- Settles O20: an operation without an operand has one word, and CK_CLR is one update of the state. -/
theorem ckClrClearsTheAccumulator : Obligations.CkClrClearsTheAccumulator :=
  ⟨decodeOfEncodeIsTheInstruction .ckClr, fun _ s op other => runCode_of_bare_op op (by decide) other s, fun _ => rfl⟩

/-- Settles O21: CK_ADD is one update of the state, whose new value is the sum modulo 65536. -/
theorem ckAddAddsTheByte : Obligations.CkAddAddsTheByte :=
  ⟨fun b => (decodeWord_ckAddWord b).2, fun _ s _ rsv => runCode_of_rsv rsv s,
    fun b s => ⟨s.setCkAcc (accumulate s.ck.acc b), rfl, accumulate_toNat s.ck.acc b, rfl⟩⟩

/-- Settles O22: CK_RD responds with the negated accumulator, or holds. -/
theorem ckRdReportsTheNegatedSum : Obligations.CkRdReportsTheNegatedSum := by
  refine ⟨decodeOfEncodeIsTheInstruction .ckRd, fun _ s op other => runCode_of_bare_op op (by decide) other s,
    fun s => ⟨fun room => ?_, fun full => ?_⟩⟩
  · exact ⟨checksumOf s.ck.acc, checksumOf_toNat s.ck.acc, respondOrHold_of_room room _ _⟩
  · exact respondOrHold_of_full full _ _

/-! ## The laws of the checksum (R101 to R104, R110) -/

theorem checksum_eq_neg (l : List Byte) : checksum l = -sum16 l := by
  simp [checksum, checksumOf]

theorem sum16_cons (b : Byte) (l : List Byte) : sum16 (b :: l) = zext16 b + sum16 l := by
  rw [sum16, List.foldl_cons, foldl_accumulate, accumulate, zero_add]

/-- R104: a sequence's sum and its checksum cancel. -/
theorem sum16_add_checksum (l : List Byte) : sum16 l + checksum l = 0 := by
  rw [checksum_eq_neg]
  exact add_neg_cancel (sum16 l)

/-- The sum of R100 is a sum in the ring of 16-bit words. -/
theorem sum16_eq_sum (l : List Byte) : sum16 l = (l.map zext16).sum := by
  induction l with
  | nil => rfl
  | cons b l ih => rw [sum16_cons, ih, List.map_cons, List.sum_cons]

theorem sum16_toNat (l : List Byte) : (sum16 l).toNat = (l.map BitVec.toNat).sum % 65536 := by
  induction l with
  | nil => rfl
  | cons b l ih => rw [sum16_cons, BitVec.toNat_add, ih, zext16_toNat, Nat.add_mod_mod, List.map_cons, List.sum_cons]

theorem sum_toNat_le (l : List Byte) : (l.map BitVec.toNat).sum ≤ l.length * 255 := by
  have each : ∀ n ∈ l.map BitVec.toNat, n ≤ 255 := by
    rw [List.forall_mem_map]
    exact fun b _ => Nat.le_of_lt_succ b.isLt
  simpa using List.sum_le_card_nsmul _ 255 each

/-- R110: 257 bytes do not overflow 16 bits. -/
theorem sum16_toNat_of_length_le {l : List Byte} (short : l.length ≤ 257) :
    (sum16 l).toNat = (l.map BitVec.toNat).sum := by
  have := sum_toNat_le l
  rw [sum16_toNat, Nat.mod_eq_of_lt (by omega)]

theorem sum16_perm {l m : List Byte} (h : l.Perm m) : sum16 l = sum16 m := by
  rw [sum16_eq_sum, sum16_eq_sum, (h.map zext16).sum_eq]

/-- Settles O23: the checksum is the negative of a sum in a commutative ring, and a short sum does not wrap. -/
theorem checksumLaws : Obligations.ChecksumLaws := by
  refine ⟨fun s => ?_, rfl, sum16_add_checksum, fun s t h => ?_, fun s => ?_, fun s t => ?_, fun s => ?_,
    fun s short => sum16_toNat_of_length_le short, fun s short => ?_⟩
  · exact (checksum_eq_neg s).trans (BitVec.neg_eq_not_add _)
  · rw [checksum, checksum, sum16_perm h]
  · simp [checksum, sum16_append, sum16_cons, zext16]
  · simp only [checksum_eq_neg, sum16_append]; exact neg_add _ _
  · rw [checksum_eq_neg]; exact neg_eq_zero
  · have := sum_toNat_le s
    rw [sum16_toNat_of_length_le (by omega)]; omega

/-! ## The checksum in a frame (R105) -/

/-- R9: a word is its two bytes, the high byte first. -/
theorem be16_hi_lo (w : Word) : be16 (hi w) (lo w) = w := by
  apply BitVec.eq_of_toNat_eq
  have := w.isLt
  simp [be16, hi, lo, BitVec.toNat_add, BitVec.toNat_mul, BitVec.extractLsb'_toNat, Nat.shiftRight_eq_div_pow]
  omega

/-- Settles O24: the two checksum bytes are the word that cancels the sum before them. -/
theorem frameLaw : Obligations.FrameLaw := by
  refine ⟨fun l p h c frame => ?_, by decide⟩
  obtain ⟨rfl, rfl⟩ : hi (checksum (l :: p)) = h ∧ lo (checksum (l :: p)) = c := by simpa [frameBytes] using frame
  rw [be16_hi_lo, sum16_add_checksum]

/-! ## CK under any interleaving (R109) -/

theorem addedBytes_cons (m : Move) (ms : List Move) : addedBytes (m :: ms) = addedBytes [m] ++ addedBytes ms := by
  cases m with
  | command i => cases i <;> rfl
  | _ => rfl

/-- R63: a move accumulates the byte it adds, if any, and only CK_CLR writes CK otherwise. -/
theorem Move.apply_ckAcc {m : Move} {s t : State} (noClear : m ≠ .command .ckClr) (h : m.apply s = .next t) :
    t.ck.acc = (addedBytes [m]).foldl accumulate s.ck.acc := by
  cases m with
  | command i =>
    rw [(exec_units h).ck]
    cases i with
    | ckClr => exact absurd rfl noClear
    | _ => rfl
  | pop => exact congrArg Ck.acc (popStep_noCode h).ck
  | enc => exact congrArg Ck.acc (encStep_noCode h).ck
  | tx a => exact congrArg Ck.acc (txStep_noCode h).ck
  | rx => exact congrArg Ck.acc (rxStep_noCode h).ck

/-- R109: moves without a CK_CLR accumulate exactly the bytes that CK_ADD adds. -/
theorem applyMoves_ckAcc {ms : List Move} {s t : State} (noClear : .command .ckClr ∉ ms)
    (h : applyMoves ms s = .next t) : t.ck.acc = (addedBytes ms).foldl accumulate s.ck.acc := by
  induction ms generalizing s with
  | nil => cases h; rfl
  | cons m ms ih =>
    obtain ⟨hm, hms⟩ := not_or.mp (mt List.mem_cons.mpr noClear)
    obtain ⟨u, first, rest⟩ := applyMoves_cons_next h
    rw [addedBytes_cons, List.foldl_append, ih hms rest, Move.apply_ckAcc (Ne.symm hm) first]

/-- From a cleared accumulator, CK_RD reports the checksum of the bytes added. -/
theorem execCkRd_of_applyMoves {ms : List Move} {s t : State} (noClear : .command .ckClr ∉ ms) (clear : s.ck.acc = 0)
    (h : applyMoves ms s = .next t) (room : t.full = false) :
    execCkRd t = .next (t.respond (.ckval (checksum (addedBytes ms)))) := by
  have acc : t.ck.acc = sum16 (addedBytes ms) := by rw [applyMoves_ckAcc noClear h, clear]; rfl
  rw [execCkRd, respondOrHold_of_room room, acc, checksum]

/-- Settles O25: CK_CLR and the reset both leave CK.acc at 0. -/
theorem ckComputesTheChecksum : Obligations.CkComputesTheChecksum := by
  intro s t ms noClear h room
  rcases h with h | h
  · exact execCkRd_of_applyMoves (s := s.setCkAcc 0) noClear rfl h room
  · exact execCkRd_of_applyMoves (s := s.rst) noClear rfl h room

end Sys2Proof.Machine
end

section
/-! SUPPORT. Proofs of the statements about the frame encoder (41_encoder.md), part 1: the shape of a composed frame
(R120 to R122), and an equation for each case of ENC's commands, its internal step and the TX transfer (R126 to R133). -/

namespace Sys2Proof.Machine

/-! ## Compose (R120 to R122) -/

theorem frameBytes_length (l : Byte) (p : List Byte) : (frameBytes l p).length = p.length + 3 := by simp [frameBytes]

theorem compose_of_big {p : List Byte} (big : 255 ≤ p.length) : compose p = .error p.length := by
  rw [compose, if_pos (by omega)]

/-- R120: a length byte that is the payload's size and one more fits 8 bits, so the payload is small enough. -/
theorem compose_of_length {l : Byte} {p : List Byte} (size : p.length + 1 = l.toNat) :
    compose p = .ok (frameBytes l p) := by
  have := l.isLt
  have hl : lengthByte (BitVec.ofNat 8 p.length) = l := by
    apply BitVec.eq_of_toNat_eq
    simp [lengthByte, BitVec.toNat_add]
    omega
  rw [compose, if_neg (by omega), hl]

theorem payloadSize_toNat {k : Nat} (small : k ≤ 254) : (BitVec.ofNat 8 k).toNat = k := by
  simp only [BitVec.toNat_ofNat]
  omega

theorem ne_255_of_toNat_le {n : Byte} (small : n.toNat ≤ 254) : n ≠ 255 := by
  rintro rfl
  exact absurd small (by decide)

/-- R80, R121: a payload of at most 254 bytes has a length byte. -/
theorem lengthByte_ofNat {k : Nat} (small : k ≤ 254) : (lengthByte (BitVec.ofNat 8 k)).toNat = k + 1 := by
  have size := payloadSize_toNat small
  rw [lengthByte_toNat (ne_255_of_toNat_le (by rwa [size])), size]

/-- Settles O26: a payload that has a length byte is framed with it, and the checksum is its two bytes. -/
theorem composeShape : Obligations.ComposeShape := by
  refine fun p => ⟨compose_of_big, fun small => ?_⟩
  have hl := lengthByte_ofNat small
  exact ⟨_, _, compose_of_length hl.symm, hl, frameBytes_length _ _, rfl, be16_hi_lo _⟩

/-! ## The fields of STATUS that show ENC (R33) -/

theorem statusWord_obufFull (e : Enc) (p : Par) : (statusWord e p).getLsbD 3 = e.obufFull := by
  unfold statusWord
  generalize e.phase = encPhase, e.obufFull = full, p.phase = parPhase
  cases encPhase <;> cases full <;> cases parPhase <;> decide

theorem statusWord_encPhase (e : Enc) (p : Par) : (statusWord e p).extractLsb' 0 3 = e.phase.code := by
  unfold statusWord
  generalize e.phase = encPhase, e.obufFull = full, p.phase = parPhase
  cases encPhase <;> cases full <;> cases parPhase <;> decide

/-! ## ENC_START (R126) -/

theorem raiseOrHold_of_room {s : State} (room : s.full = false) (w : Word) (e : ErrInfo) :
    raiseOrHold w e s = .next (s.raise e) := by
  simp [raiseOrHold, room]

theorem raiseOrHold_of_full {s : State} (full : s.full = true) (w : Word) (e : ErrInfo) :
    raiseOrHold w e s = .next (s.setPort (some w)) := by
  simp [raiseOrHold, full, hold]

theorem execEncStart_of_busy {s : State} (busy : s.enc.phase ≠ .idle) (n : Byte) :
    execEncStart n s = raiseOrHold (encStartWord n) (.sequenceError .enc (encStartWord n) s.enc.phase.code) s := by
  rw [execEncStart, if_pos busy]

theorem execEncStart_of_tooLarge {s : State} (idle : s.enc.phase = .idle) :
    execEncStart 255 s = raiseOrHold (encStartWord 255) (.frameTooLarge 255) s := by
  rw [execEncStart, if_neg (not_not.mpr idle), if_pos (by decide)]

theorem execEncStart_of_idle {s : State} {n : Byte} (idle : s.enc.phase = .idle) (small : n ≠ 255) :
    execEncStart n s = .next (s.setEnc (Enc.start n)) := by
  have := lengthByte_toNat small
  have := (lengthByte n).isLt
  rw [execEncStart, if_neg (not_not.mpr idle), if_neg (by omega)]

theorem Enc.start_phase_code (n : Byte) : (Enc.start n).phase.code = if n = 0 then 2 else 1 := by
  unfold Enc.start
  split <;> rfl

/-- R126: the accumulator starts with the length byte alone. -/
theorem Enc.start_acc {n : Byte} (small : n ≠ 255) : (Enc.start n).acc.toNat = n.toNat + 1 := by
  have := n.isLt
  have acc : (Enc.start n).acc.toNat = (0 + (lengthByte n).toNat) % 65536 := accumulate_toNat 0 (lengthByte n)
  rw [acc, lengthByte_toNat small]
  omega

/-- Settles O27: in IDLE ENC_START is one update of ENC, and each of its errors responds or holds. -/
theorem encStartBeginsAFrame : Obligations.EncStartBeginsAFrame := by
  refine ⟨fun n => (decodeWord_encStartWord n).2, fun w s _ rsv => runCode_of_rsv rsv s, fun n s =>
    ⟨fun idle small => ?_, fun busy room => ?_, fun idle big room => ?_, fun error full => ?_⟩⟩
  · exact ⟨_, execEncStart_of_idle idle small, lengthByte_toNat small, rfl, Enc.start_acc small, rfl, rfl,
      statusWord_obufFull _ _, (statusWord_encPhase _ _).trans (Enc.start_phase_code n), rfl⟩
  · exact (execEncStart_of_busy busy n).trans (raiseOrHold_of_room room _ _)
  · subst big
    exact (execEncStart_of_tooLarge idle).trans (raiseOrHold_of_room room _ _)
  · by_cases idle : s.enc.phase = .idle
    · obtain rfl : n = 255 := error.resolve_left (not_not.mpr idle)
      exact (execEncStart_of_tooLarge idle).trans (raiseOrHold_of_full full _ _)
    · exact (execEncStart_of_busy idle n).trans (raiseOrHold_of_full full _ _)

/-! ## ENC_PUSH (R128) -/

theorem execEncPush_of_wrongPhase {s : State} (wrong : s.enc.phase ≠ .payload) (b : Byte) :
    execEncPush b s = raiseOrHold (encPushWord b) (.sequenceError .enc (encPushWord b) s.enc.phase.code) s := by
  rw [execEncPush, if_pos wrong]

theorem execEncPush_of_waiting {s : State} {c : Byte} (phase : s.enc.phase = .payload) (waiting : s.enc.obuf = some c)
    (b : Byte) : execEncPush b s = .next (s.setPort (some (encPushWord b))) := by
  simp only [execEncPush, phase, waiting, hold, ne_eq, not_true_eq_false, if_false]

theorem execEncPush_of_empty {s : State} (phase : s.enc.phase = .payload) (empty : s.enc.obuf = none) (b : Byte) :
    execEncPush b s = .next (s.setEnc (s.enc.push b)) := by
  simp only [execEncPush, phase, empty, ne_eq, not_true_eq_false, if_false]

/-- Settles O28: with ENC.obuf empty in PAYLOAD a push is one update of ENC; else it holds or raises. -/
theorem encPushPassesAPayloadByte : Obligations.EncPushPassesAPayloadByte := by
  refine ⟨fun b => (decodeWord_encPushWord b).2, fun w s _ rsv => runCode_of_rsv rsv s, fun b s =>
    ⟨fun phase empty => ?_, fun phase waiting => ?_, fun wrong room => ?_, fun wrong full => ?_⟩⟩
  · exact ⟨_, execEncPush_of_empty phase empty b, rfl, rfl, rfl, rfl, by rw [← phase]; rfl, rfl⟩
  · obtain ⟨c, waiting⟩ := Option.ne_none_iff_exists'.mp waiting
    exact execEncPush_of_waiting phase waiting b
  · exact (execEncPush_of_wrongPhase wrong b).trans (raiseOrHold_of_room room _ _)
  · exact (execEncPush_of_wrongPhase wrong b).trans (raiseOrHold_of_full full _ _)

/-! ## ENC's internal steps (R129 to R131) -/

theorem encStep_of_ckHi {s : State} (phase : s.enc.phase = .ckHi) (empty : s.enc.obuf = none) :
    encStep s = .next (s.setEnc s.enc.emitHigh) := by
  simp only [encStep, empty, phase]

theorem encStep_of_ckLo {s : State} (phase : s.enc.phase = .ckLo) (empty : s.enc.obuf = none) :
    encStep s = .next (s.setEnc s.enc.emitLow) := by
  simp only [encStep, empty, phase]

theorem encStep_of_drain {s : State} (phase : s.enc.phase = .drain) (empty : s.enc.obuf = none)
    (room : s.full = false) : encStep s = .next ((s.setEnc Enc.reset).respond (.encDone s.enc.len)) := by
  simp [encStep, empty, phase, room]

/-- R129 to R131: where the step's condition fails, it is not enabled. -/
theorem encStep_of_not_encEnabled {s : State} (h : s.encEnabled = false) : encStep s = .next s := by
  unfold State.encEnabled Enc.obufFull at h
  cases hb : s.enc.obuf with
  | some b => simp only [encStep, hb, notEnabled]
  | none =>
    cases hp : s.enc.phase with
    | idle => simp only [encStep, hb, hp, notEnabled]
    | payload => simp only [encStep, hb, hp, notEnabled]
    | ckHi => simp [hb, hp] at h
    | ckLo => simp [hb, hp] at h
    | drain =>
      have full : s.full = true := by simpa [hb, hp] using h
      simp [encStep, hb, hp, full, notEnabled]

/-- Settles O29: one equation for each phase in which the step is enabled. -/
theorem encAppendsTheChecksum : Obligations.EncAppendsTheChecksum := by
  refine fun s => ⟨encStep_of_ckHi, encStep_of_ckLo, encStep_of_drain, fun blocked =>
    encStep_of_not_encEnabled ?_⟩
  rcases blocked with waiting | idle | payload | ⟨drain, full⟩
  · simp [State.encEnabled, Enc.obufFull, Option.isSome_iff_ne_none.mpr waiting]
  · simp [State.encEnabled, idle]
  · simp [State.encEnabled, payload]
  · simp [State.encEnabled, drain, full]

/-! ## The TX transfer (R132, R133) -/

theorem txStep_accept {s : State} {b : Byte} (offered : s.enc.obuf = some b) :
    txStep .accept s = .next ((s.sendByte b).setEnc { s.enc with obuf := none }) := by
  simp only [txStep, offered]

theorem txStep_of_empty {s : State} (empty : s.enc.obuf = none) (a : TxAnswer) : txStep a s = .next s := by
  simp only [txStep, empty, notEnabled]

theorem txStep_reject {s : State} {b : Byte} {sent : Nat} (offered : s.enc.obuf = some b)
    (count : emitted s.enc.phase s.enc.len.toNat s.enc.cnt.toNat = some (sent + 1)) :
    txStep .reject s = if s.full then .next s
      else .next ((s.setEnc Enc.reset).raise (.transportError .enc (s.enc.len.toNat + 2) sent)) := by
  simp only [txStep, offered, count, notEnabled]

/-- Settles O30: the two cases of the TX step on an accepting LINK. -/
theorem txAcceptMovesTheByteToTheWire : Obligations.TxAcceptMovesTheByteToTheWire :=
  fun _ => ⟨fun _ offered => txStep_accept offered, fun empty => txStep_of_empty empty .accept⟩

/-- Settles O31: R27 makes the number of emitted bytes positive in each phase of R133's table. -/
theorem txErrorAbandonsTheFrame : Obligations.TxErrorAbandonsTheFrame := by
  rintro s b n ⟨-, -, hlen, hcnt⟩ offered table
  have count : emitted s.enc.phase s.enc.len.toNat s.enc.cnt.toNat = some n ∧ 1 ≤ n := by
    rcases table with ⟨phase, rfl⟩ | ⟨phase, rfl⟩ | ⟨phase, rfl⟩ | ⟨phase, rfl⟩
    · exact ⟨by rw [phase, emitted, if_pos (hcnt phase)], by omega⟩
    · exact ⟨by rw [phase, emitted], hlen (by simp [phase])⟩
    · exact ⟨by rw [phase, emitted], by omega⟩
    · exact ⟨by rw [phase, emitted], by omega⟩
  obtain ⟨count, pos⟩ := count
  exact txStep_reject offered (by rw [count, Nat.sub_add_cancel pos])

end Sys2Proof.Machine
end

section
/-! SUPPORT. Proofs of the statements about the frame encoder (41_encoder.md), part 2: how ENC stands to the bytes the LINK
has accepted of the frame in progress (`Enc.InFrame`), kept by each of ENC's operations. The statements about ENC_DONE and
TX errors (R131, R133, R135), about a whole SEND on a fixed schedule and about SEND under any interleaving (R134) all
follow from it. -/

namespace Sys2Proof.Machine

/-! ## A frame in progress -/

/-- ENC is in a frame with length byte `l`: of this frame the LINK has accepted the bytes `wire` and is still offered
ENC.obuf, and the payload bytes pushed so far are `p`. It is `Enc.OnWire` with the frame's own bytes told apart from those
before it (`State.Inv.inFrame`). -/
structure Enc.InFrame (e : Enc) (l : Byte) (wire p : List Byte) : Prop where
  inv : e.Inv
  busy : e.phase ≠ .idle
  len : e.len = l
  bytes : wire ++ e.obuf.toList = l :: p ++ e.phase.trailer (checksum (l :: p))
  size : p.length + 1 + e.cnt.toNat = l.toNat
  acc : e.acc = sum16 (l :: p)

/-- R27: payload bytes are to come in PAYLOAD and nowhere else. -/
theorem Enc.Inv.cnt_pos_iff {e : Enc} (inv : e.Inv) : 0 < e.cnt.toNat ↔ e.phase = .payload := by
  obtain ⟨-, hcnt, -, -⟩ := inv
  exact hcnt

theorem Enc.Inv.cnt_eq_zero {e : Enc} (inv : e.Inv) (phase : e.phase ≠ .payload) : e.cnt.toNat = 0 :=
  Nat.eq_zero_of_not_pos (mt inv.cnt_pos_iff.mp phase)

theorem Enc.start_inFrame {n : Byte} (small : n ≠ 255) : (Enc.start n).InFrame (lengthByte n) [] [] where
  inv := Enc.start_inv small
  busy := EncPhase.ne_idle_of (Enc.start_phase n)
  len := rfl
  bytes := by rw [EncPhase.trailer_eq_nil (Enc.start_phase n)]; rfl
  size := by rw [lengthByte_toNat small, Nat.add_comm]; simp [Enc.start]
  acc := rfl

theorem Enc.InFrame.push {e : Enc} {l : Byte} {wire p : List Byte} (h : e.InFrame l wire p) (b : Byte)
    (phase : e.phase = .payload) (empty : e.obuf = none) : (e.push b).InFrame l wire (p ++ [b]) := by
  have hphase := (Enc.push_phase b phase).imp And.left And.left
  have hcnt := Enc.push_cnt b h.inv phase
  exact
    { inv := Enc.push_inv b h.inv phase
      busy := EncPhase.ne_idle_of hphase
      len := h.len
      bytes := by
        have hwire : wire = l :: p := by simpa [phase, empty, EncPhase.trailer] using h.bytes
        rw [EncPhase.trailer_eq_nil hphase, hwire]
        simp [Enc.push]
      size := by
        have := h.size
        rw [List.length_append, List.length_singleton]
        omega
      acc := by rw [← List.cons_append, ← accumulate_sum16, ← h.acc]; rfl }

theorem Enc.InFrame.emitHigh {e : Enc} {l : Byte} {wire p : List Byte} (h : e.InFrame l wire p)
    (phase : e.phase = .ckHi) (empty : e.obuf = none) : e.emitHigh.InFrame l wire p where
  inv := Enc.emitHigh_inv h.inv phase
  busy := by simp [Enc.emitHigh]
  len := h.len
  bytes := by
    have hwire : wire = l :: p := by simpa [phase, empty, EncPhase.trailer] using h.bytes
    simp [Enc.emitHigh, Enc.emit, EncPhase.trailer, hwire, h.acc, checksum]
  size := h.size
  acc := h.acc

theorem Enc.InFrame.emitLow {e : Enc} {l : Byte} {wire p : List Byte} (h : e.InFrame l wire p)
    (phase : e.phase = .ckLo) (empty : e.obuf = none) : e.emitLow.InFrame l wire p where
  inv := Enc.emitLow_inv h.inv phase
  busy := by simp [Enc.emitLow]
  len := h.len
  bytes := by
    have hwire : wire = l :: p ++ [hi (checksum (l :: p))] := by
      simpa [phase, empty, EncPhase.trailer] using h.bytes
    simp [Enc.emitLow, Enc.emit, EncPhase.trailer, hwire, h.acc, checksum]
  size := h.size
  acc := h.acc

theorem Enc.InFrame.accept {e : Enc} {l b : Byte} {wire p : List Byte} (h : e.InFrame l wire p)
    (offered : e.obuf = some b) : ({ e with obuf := none } : Enc).InFrame l (wire ++ [b]) p :=
  { h with
    inv := Enc.accept_inv h.inv
    bytes := by simpa [offered] using h.bytes }

/-- In DRAIN with ENC.obuf empty the LINK has accepted the whole frame (R131). -/
theorem Enc.InFrame.drained {e : Enc} {l : Byte} {wire p : List Byte} (h : e.InFrame l wire p)
    (phase : e.phase = .drain) (empty : e.obuf = none) : wire = frameBytes l p ∧ p.length + 1 = l.toNat := by
  have hcnt := h.inv.cnt_eq_zero (by simp [phase])
  have := h.size
  exact ⟨by simpa [phase, empty, EncPhase.trailer, frameBytes] using h.bytes, by omega⟩

/-- The bytes of a frame in progress are the end of TXLOG. -/
theorem State.Inv.inFrame {s : State} (hs : s.Inv) (busy : s.enc.phase ≠ .idle) :
    ∃ before wire p, s.txlog = before ++ wire ∧ s.enc.InFrame s.enc.len wire p := by
  obtain ⟨before, p, bytes, size, acc⟩ := (Enc.onWire_iff hs.enc busy).mp hs.encWire
  rw [List.append_assoc] at bytes
  rcases List.append_eq_append_iff.mp bytes with ⟨more, hbefore, pending⟩ | ⟨wire, hlog, sent⟩
  · have atMostOne : s.enc.obuf.toList.length ≤ 1 := by cases s.enc.obuf <;> simp
    obtain rfl : more = [] := by
      have := congrArg List.length pending
      simp only [List.length_append, List.length_cons] at this
      exact List.length_eq_zero_iff.mp (by omega)
    exact ⟨before, [], p, by rw [hbefore, List.append_nil, List.append_nil], hs.enc, busy, rfl, pending, size, acc⟩
  · exact ⟨before, wire, p, hlog, hs.enc, busy, rfl, sent.symm, size, acc⟩

/-- Settles O34: in DRAIN with ENC.obuf empty the bytes of the frame in progress are a composed frame. -/
theorem encDoneMeansTheFrameIsOnTheWire : Obligations.EncDoneMeansTheFrameIsOnTheWire := by
  intro s hs drain empty room
  obtain ⟨before, wire, p, hlog, frame⟩ := hs.inFrame (by simp [drain])
  obtain ⟨rfl, size⟩ := frame.drained drain empty
  exact ⟨_, before, p, _, encStep_of_drain drain empty room, rfl, size, compose_of_length size, hlog⟩

/-! ## A TX error in a frame (R133, R135) -/

/-- R27: in IDLE ENC offers no byte. -/
theorem Enc.Inv.ne_idle_of_offered {e : Enc} {b : Byte} (inv : e.Inv) (offered : e.obuf = some b) :
    e.phase ≠ .idle := by
  intro idle
  obtain ⟨hidle, -⟩ := inv
  obtain ⟨-, -, -, empty⟩ := hidle idle
  cases offered.symm.trans empty

/-- R133 counts the bytes the LINK has accepted and the one it is offered. -/
theorem Enc.InFrame.emitted_eq {e : Enc} {l b : Byte} {wire p : List Byte} (h : e.InFrame l wire p)
    (offered : e.obuf = some b) : emitted e.phase e.len.toNat e.cnt.toNat = some (wire.length + 1) := by
  have bytes := congrArg List.length h.bytes
  have size := h.size
  have zero := h.inv.cnt_eq_zero
  simp only [offered, Option.toList, List.length_append, List.length_cons, List.length_nil] at bytes
  rw [h.len]
  cases phase : e.phase with
  | idle => exact absurd phase h.busy
  | payload =>
    simp only [phase, EncPhase.trailer, List.length_nil] at bytes
    rw [emitted, if_pos (by omega), Option.some.injEq]
    omega
  | ckHi | ckLo | drain =>
    have := zero (by simp [phase])
    simp only [phase, EncPhase.trailer, List.length_cons, List.length_nil] at bytes
    rw [emitted, Option.some.injEq]
    omega

/-- Completed in some way, the payload pushed so far gives a frame that the emitted bytes begin (R135). -/
theorem Enc.InFrame.begins_frame {e : Enc} {l : Byte} {wire p : List Byte} (h : e.InFrame l wire p) :
    ∃ q, q.length + 1 = l.toNat ∧ wire ++ e.obuf.toList <+: frameBytes l q := by
  refine ⟨p ++ List.replicate e.cnt.toNat 0, ?_, ?_⟩
  · have := h.size
    rw [List.length_append, List.length_replicate]
    omega
  · rw [h.bytes]
    have zero := h.inv.cnt_eq_zero
    cases phase : e.phase with
    | idle => exact absurd phase h.busy
    | payload => simp [EncPhase.trailer, frameBytes]
    | ckHi | ckLo | drain => simp [EncPhase.trailer, frameBytes, zero (by simp [phase])]

/-- Settles O35: the rejected byte is the next one of the frame, so the accepted ones are fewer than all. -/
theorem txErrorLeavesAProperInitialPart : Obligations.TxErrorLeavesAProperInitialPart := by
  intro s b hs offered room
  have busy := hs.enc.ne_idle_of_offered offered
  obtain ⟨before, wire, p, hlog, frame⟩ := hs.inFrame busy
  obtain ⟨q, size, rest, hrest⟩ := frame.begins_frame
  have step := txStep_reject offered (frame.emitted_eq offered)
  rw [room, if_neg Bool.false_ne_true] at step
  refine ⟨_, wire.length, before, q, _, step, rfl, size, compose_of_length size, ?_, ?_⟩
  · rw [← hrest]
    simp [offered]
  · rw [← hrest, List.append_assoc, List.take_left]
    exact hlog

end Sys2Proof.Machine
end

section
/-! SUPPORT. Proofs of the statements about the frame encoder (41_encoder.md), part 3: a whole SEND (R134), on the schedule
in which the LINK accepts each byte at once, and under any interleaving without a TX error. -/

namespace Sys2Proof.Machine

/-! ## The steps of SEND, one at a time -/

/-- ENC once the LINK has accepted its byte (R132). -/
def Enc.taken (e : Enc) : Enc := { e with obuf := none }

/-- `s` further on: ENC holds `e`, TXLOG has gained `wire`, and `script` and `turns` are still to come. -/
def State.onward (s : State) (e : Enc) (wire : List Byte) (script : List HostAct) (turns : List Turn) : State :=
  { s with enc := e, txlog := s.txlog ++ wire, hostq := script, turns := turns }

section
variable {s : State} {e : Enc} {wire : List Byte} {script later : List HostAct} {ts : List Turn}

theorem step_onward (τ : Turn) : step (s.onward e wire script (τ :: ts)) = fire τ (s.onward e wire script ts) :=
  step_of_cons rfl

theorem fire_accept {b : Byte} (offered : e.obuf = some b) :
    fire (.tx .accept) (s.onward e wire script ts) = .next (s.onward e.taken (wire ++ [b]) script ts) := by
  rw [fire, txStep_accept (s := s.onward e wire script ts) offered]
  simp only [State.onward, State.sendByte, State.setEnc, Enc.taken, List.append_assoc]

/-- The HOST issues the word of a command on a free port (R190). -/
theorem fire_issueWord {w : Word} {i : Instr} (port : s.port = none) (decoded : decodeWord w = .ok i) :
    fire .host (s.onward e wire (issueWord w :: later) ts) = exec i (s.onward e wire later ts) := by
  simp only [fire, hostStep, State.onward, issueWord, port]
  exact runCode_of_decode (c := .cmd w) decoded _

theorem fire_start {n : Byte} (port : s.port = none) (idle : e.phase = .idle) (small : n ≠ 255) :
    fire .host (s.onward e wire (issueWord (encStartWord n) :: later) ts) =
      .next (s.onward (Enc.start n) wire later ts) :=
  (fire_issueWord port (decodeWord_encStartWord n).2).trans
    (execEncStart_of_idle (s := s.onward e wire later ts) idle small)

theorem fire_push (port : s.port = none) (phase : e.phase = .payload) (empty : e.obuf = none) (b : Byte) :
    fire .host (s.onward e wire (issueWord (encPushWord b) :: later) ts) =
      .next (s.onward (e.push b) wire later ts) :=
  (fire_issueWord port (decodeWord_encPushWord b).2).trans
    (execEncPush_of_empty (s := s.onward e wire later ts) phase empty b)

theorem fire_emitHigh (phase : e.phase = .ckHi) (empty : e.obuf = none) :
    fire .enc (s.onward e wire script ts) = .next (s.onward e.emitHigh wire script ts) :=
  encStep_of_ckHi (s := s.onward e wire script ts) phase empty

theorem fire_emitLow (phase : e.phase = .ckLo) (empty : e.obuf = none) :
    fire .enc (s.onward e wire script ts) = .next (s.onward e.emitLow wire script ts) :=
  encStep_of_ckLo (s := s.onward e wire script ts) phase empty

theorem fire_finish (phase : e.phase = .drain) (empty : e.obuf = none) (room : s.full = false) :
    fire .enc (s.onward e wire script ts) = .next ((s.onward Enc.reset wire script ts).respond (.encDone e.len)) :=
  encStep_of_drain (s := s.onward e wire script ts) phase empty room

/-! ## SEND on the schedule of an accepting LINK (R134) -/

/-- A step that offers the LINK a byte, and the LINK's acceptance of it. -/
theorem run_emit_accept {τ : Turn} {e' : Enc} {b : Byte}
    (emits : fire τ (s.onward e wire script (.tx .accept :: ts)) = .next (s.onward e' wire later (.tx .accept :: ts)))
    (offered : e'.obuf = some b) :
    run 2 (s.onward e wire script (τ :: .tx .accept :: ts)) = .next (s.onward e'.taken (wire ++ [b]) later ts) := by
  rw [run_succ 1 ((step_onward τ).trans emits), run_succ 0 ((step_onward _).trans (fire_accept offered)), run_zero]

end

/-- The pushes of the rest of the payload, each accepted at once, leave the whole payload pushed and accepted. -/
theorem run_pushes {s : State} (port : s.port = none) (l : Byte) (later : List HostAct) (ts : List Turn) :
    ∀ (rest : List Byte) {e : Enc} {wire p : List Byte}, e.InFrame l wire p → e.obuf = none →
      e.phase = .ckHi ∨ e.phase = .payload → e.cnt.toNat = rest.length →
      ∃ e' wire', run (2 * rest.length) (s.onward e wire ((rest.map encPushWord).map issueWord ++ later)
          (issueTurns rest.length ++ ts)) = .next (s.onward e' wire' later ts) ∧
        e'.InFrame l wire' (p ++ rest) ∧ e'.obuf = none ∧ e'.phase = .ckHi
  | [], e, wire, p, frame, empty, phase, left => by
    have ckHi := phase.resolve_right fun payload => (frame.inv.cnt_pos_iff.mpr payload).ne' left
    exact ⟨e, wire, rfl, by rwa [List.append_nil], empty, ckHi⟩
  | b :: rest, e, wire, p, frame, empty, _, left => by
    have payload := frame.inv.cnt_pos_iff.mp (left ▸ Nat.succ_pos _)
    have left' := Enc.push_cnt b frame.inv payload
    rw [left, List.length_cons, Nat.add_right_cancel_iff] at left'
    obtain ⟨e', wire', hrun, frame', empty', ckHi⟩ := run_pushes port l later ts rest
      ((frame.push b payload empty).accept rfl) rfl ((Enc.push_phase b payload).imp And.left And.left) left'
    refine ⟨e', wire', ?_, by simpa using frame', empty', ckHi⟩
    rw [List.length_cons, Nat.mul_succ, Nat.add_comm]
    exact (run_add _ 2 (run_emit_accept (fire_push port payload empty b) rfl)).trans hrun

/-- From CK_HI on ENC needs no command: its two checksum bytes are accepted, and it reports the frame. -/
theorem run_checksum {s : State} (room : s.full = false) {e : Enc} {l : Byte} {wire p : List Byte}
    (frame : e.InFrame l wire p) (empty : e.obuf = none) (ckHi : e.phase = .ckHi) (later : List HostAct)
    (ts : List Turn) :
    run 5 (s.onward e wire later (.enc :: .tx .accept :: .enc :: .tx .accept :: .enc :: ts)) =
      .next ((s.onward Enc.reset (frameBytes l p) later ts).respond (.encDone l)) := by
  have high := (frame.emitHigh ckHi empty).accept rfl
  have low := (high.emitLow rfl rfl).accept rfl
  obtain ⟨wire_eq, -⟩ := low.drained rfl rfl
  rw [run_add 3 2 (run_emit_accept (fire_emitHigh ckHi empty) rfl),
    run_add 1 2 (run_emit_accept (fire_emitLow (e := e.emitHigh.taken) rfl rfl) rfl),
    run_succ 0 ((step_onward _).trans (fire_finish (e := e.emitHigh.taken.emitLow.taken) rfl rfl room)), run_zero,
    ← wire_eq, ← low.len]
  rfl

/-- All of SEND: the start and the pushes, each with its byte accepted at once, and then ENC's own steps. -/
theorem run_send {s : State} (port : s.port = none) (room : s.full = false) {p : List Byte} (short : p.length ≤ 254)
    (later : List HostAct) (ts : List Turn) :
    run (2 + (2 * p.length + 5)) (s.onward Enc.reset [] ((sendWords p).map issueWord ++ later)
        (sendTurns p.length ++ ts)) =
      .next ((s.onward Enc.reset (frameBytes (lengthByte (BitVec.ofNat 8 p.length)) p) later ts).respond
        (.encDone (lengthByte (BitVec.ofNat 8 p.length)))) := by
  have size := payloadSize_toNat short
  have small : BitVec.ofNat 8 p.length ≠ 255 := ne_255_of_toNat_le (by rwa [size])
  rw [sendTurns, List.append_assoc]
  have start := run_emit_accept (wire := []) (ts := issueTurns p.length ++
    ([.enc, .tx .accept, .enc, .tx .accept, .enc] ++ ts)) (later := (p.map encPushWord).map issueWord ++ later)
    (fire_start (e := Enc.reset) port rfl small) rfl
  obtain ⟨e, wire, pushes, frame, empty, ckHi⟩ := run_pushes port _ later
    ([.enc, .tx .accept, .enc, .tx .accept, .enc] ++ ts) p ((Enc.start_inFrame small).accept rfl) rfl
    (Enc.start_phase _) size
  exact ((run_add _ 2 start).trans (run_add 5 _ pushes)).trans (run_checksum room frame empty ckHi later ts)

theorem issueTurns_length (n : Nat) : (issueTurns n).length = 2 * n := by
  induction n with
  | zero => rfl
  | succ n ih => rw [issueTurns, List.length_cons, List.length_cons, ih, Nat.mul_succ]

/-- Settles O32: the whole of SEND from a state whose script and turns are those of `run_send`. -/
theorem sendPutsTheComposedFrameOnTheWire : Obligations.SendPutsTheComposedFrameOnTheWire := by
  intro s p later ts short enc port room script turns
  have hl := lengthByte_ofNat short
  have start : s = s.onward Enc.reset [] ((sendWords p).map issueWord ++ later) (sendTurns p.length ++ ts) := by
    rw [State.onward, ← enc, ← script, ← turns, List.append_nil]
  have length : (sendTurns p.length).length = 2 + (2 * p.length + 5) := by
    rw [sendTurns, List.length_append, issueTurns_length]
    simp only [List.length_cons, List.length_nil]
    omega
  refine ⟨_, _, compose_of_length hl.symm, hl, ?_⟩
  rw [length]
  exact (congrArg _ start).trans ((run_send port room short later ts).trans (by rw [← enc]; rfl))

/-! ## What else a move can do (R63) -/

/-- The events that report on ENC among those handed over and those still queued. -/
def State.reports (s : State) : List Event := (s.popped ++ s.rspq).filter Event.ofEnc

theorem State.reports_respond (s : State) (ev : Event) :
    (s.respond ev).reports = s.reports ++ [ev].filter Event.ofEnc := by
  rw [State.reports, State.respond_rspq, State.respond_popped, ← List.append_assoc, List.filter_append]
  rfl

/-- ENC, TXLOG and the events that report on ENC are in `t` as in `s`. -/
structure State.SameSend (s t : State) : Prop where
  enc : t.enc = s.enc
  txlog : t.txlog = s.txlog
  reports : t.reports = s.reports

theorem State.SameSend.refl (s : State) : s.SameSend s := ⟨rfl, rfl, rfl⟩

/-- An event that does not report on ENC changes nothing of it. -/
theorem State.SameSend.respond {s t : State} (h : s.SameSend t) {ev : Event} (other : ev.ofEnc = false) :
    s.SameSend (t.respond ev) where
  enc := h.enc
  txlog := h.txlog
  reports := by rw [State.reports_respond, h.reports]; simp [other]

theorem respondOrHold_sameSend {w : Word} {ev : Event} {s t : State} (other : ev.ofEnc = false)
    (h : respondOrHold w ev s = .next t) : s.SameSend t := by
  rcases respondOrHold_next h with ⟨-, rfl⟩ | ⟨-, rfl⟩
  · exact ⟨rfl, rfl, rfl⟩
  · exact (State.SameSend.refl s).respond other

theorem execParStart_sameSend {s t : State} (h : execParStart s = .next t) : s.SameSend t := by
  rcases execParStart_next h with ⟨-, -, rfl⟩ | ⟨-, -, rfl⟩ | ⟨-, rfl⟩
  · exact ⟨rfl, rfl, rfl⟩
  · exact (State.SameSend.refl s).respond (ev := .err _) rfl
  · exact ⟨rfl, rfl, rfl⟩

theorem exec_sameSend {i : Instr} {s t : State} (other : encCommands [.command i] = []) (h : exec i s = .next t) :
    s.SameSend t := by
  cases i with
  | encStart n => cases other
  | encPush b => cases other
  | ckRd => exact respondOrHold_sameSend rfl h
  | statRd => exact respondOrHold_sameSend rfl h
  | parStart => exact execParStart_sameSend h
  | _ => cases h; exact ⟨rfl, rfl, rfl⟩

theorem popStep_sameSend {s t : State} (h : popStep s = .next t) : s.SameSend t := by
  rcases popStep_next h with ⟨-, rfl⟩ | ⟨ev, rest, queue, rfl⟩
  · exact .refl t
  · exact ⟨rfl, rfl, by simp [State.reports, queue]⟩

theorem Par.judge_ofEnc {p : Par} {b : Byte} {ev : Event} (h : p.judge b = .ok ev) : ev.ofEnc = false := by
  simp only [Par.judge] at h
  split at h
  · cases h
  · split at h
    · split at h <;> cases h <;> rfl
    · cases h

/-- The events of PAR do not report on ENC (R159 to R162). -/
theorem Par.Takes.event_ofEnc {p q : Par} {x : RxItem} {ev : Event} (h : p.Takes x (q, some ev)) :
    ev.ofEnc = false := by
  rcases h with ⟨-, h⟩ | ⟨-, h⟩
  · cases x with
    | endOfStream => cases h; rfl
    | byte l =>
      rw [Par.takeLen] at h
      split at h <;> cases h
      rfl
  · cases x with
    | endOfStream => cases h; rfl
    | byte b =>
      rw [Par.takeBody] at h
      split at h
      · cases h
      · split at h
        · split at h
          · cases h; exact Par.judge_ofEnc ‹_›
          · cases h
        · cases h

theorem rxStep_sameSend {s t : State} (h : rxStep s = .next t) : s.SameSend t := by
  rcases rxStep_next h with rfl | ⟨x, rest, ⟨q, ev?⟩, -, takes, ⟨rfl, rfl⟩ | ⟨ev, rfl, -, rfl⟩⟩
  · exact .refl _
  · exact ⟨rfl, rfl, rfl⟩
  · have quiet : s.SameSend ((s.takeItem x rest).setPar q) := ⟨rfl, rfl, rfl⟩
    exact quiet.respond (Par.Takes.event_ofEnc takes)

/-! ## SEND under any interleaving (R134) -/

/-- In PAYLOAD a push is held behind a full ENC.obuf, or passes its byte on (R128). -/
theorem execEncPush_next_of_payload {b : Byte} {s t : State} (phase : s.enc.phase = .payload)
    (h : execEncPush b s = .next t) :
    t = s.setPort (some (encPushWord b)) ∨ (s.enc.obuf = none ∧ t = s.setEnc (s.enc.push b)) := by
  rcases execEncPush_next h with ⟨wrong, -⟩ | ⟨wrong, -⟩ | ⟨-, -, held⟩ | ⟨-, empty, passed⟩
  · exact absurd phase wrong
  · exact absurd phase wrong
  · exact .inl held
  · exact .inr ⟨empty, passed⟩

/-- How far SEND of `p` has come when the commands `todo` to ENC are still to be executed: ENC holds `e`, TXLOG has gained
`wire`, and the events `reports` on ENC have been appended. A push that found ENC.obuf full is lost (`short`), and ENC then
waits in PAYLOAD for more bytes than will be pushed. -/
inductive Sending (n : Byte) (p : List Byte) (todo : List Instr) (e : Enc) (wire : List Byte) (reports : List Event) :
    Prop where
  | before (commands : todo = .encStart n :: p.map .encPush) (enc : e = Enc.reset) (nothing : wire = [])
      (silent : reports = [])
  | inFrame (q rest : List Byte) (commands : todo = rest.map .encPush) (payload : p = q ++ rest)
      (frame : e.InFrame (lengthByte n) wire q) (left : e.cnt.toNat = rest.length) (silent : reports = [])
  | short (rest : List Byte) (commands : todo = rest.map .encPush) (inv : e.Inv) (phase : e.phase = .payload)
      (few : rest.length < e.cnt.toNat)
  | done (commands : todo = []) (enc : e = Enc.reset) (frame : wire = frameBytes (lengthByte n) p)
      (reported : reports = [.encDone (lengthByte n)])

/-- `Sending`, of what `t` has gained since `s`. -/
def State.SendingSince (s : State) (n : Byte) (p : List Byte) (todo : List Instr) (t : State) : Prop :=
  ∃ wire reports, t.txlog = s.txlog ++ wire ∧ t.reports = s.reports ++ reports ∧ Sending n p todo t.enc wire reports

theorem State.SendingSince.of_sameSend {s t u : State} {n : Byte} {p : List Byte} {todo : List Instr}
    (h : s.SendingSince n p todo t) (same : t.SameSend u) : s.SendingSince n p todo u := by
  obtain ⟨wire, reports, log, queue, sending⟩ := h
  exact ⟨wire, reports, same.txlog.trans log, same.reports.trans queue, same.enc ▸ sending⟩

section
variable {s t u : State} {n : Byte} {p : List Byte} {todo : List Instr}

/-- ENC_START begins the frame: ENC is in IDLE until it comes. -/
theorem State.SendingSince.start {k : Byte} (small : n ≠ 255) (size : n.toNat = p.length)
    (h : s.SendingSince n p (.encStart k :: todo) t) (step : execEncStart k t = .next u) :
    s.SendingSince n p todo u := by
  obtain ⟨wire, reports, log, queue, sending⟩ := h
  cases sending with
  | before commands enc nothing silent =>
    cases commands
    cases (execEncStart_of_idle (by rw [enc]; rfl) small).symm.trans step
    exact ⟨wire, reports, log, queue, .inFrame [] p rfl rfl (nothing ▸ Enc.start_inFrame small) size silent⟩
  | inFrame q rest commands => cases rest <;> cases commands
  | short rest commands => cases rest <;> cases commands
  | done commands => cases commands

/-- A push passes its byte on, or finds ENC.obuf full and is lost. -/
theorem State.SendingSince.push {b : Byte} (h : s.SendingSince n p (.encPush b :: todo) t)
    (step : execEncPush b t = .next u) : s.SendingSince n p todo u := by
  obtain ⟨wire, reports, log, queue, sending⟩ := h
  cases sending with
  | before commands => cases commands
  | inFrame q rest commands payload frame left silent =>
    cases rest with
    | nil => cases commands
    | cons c rest =>
      cases commands
      have phase := frame.inv.cnt_pos_iff.mp (left ▸ Nat.succ_pos _)
      rcases execEncPush_next_of_payload phase step with rfl | ⟨empty, rfl⟩
      · exact ⟨wire, reports, log, queue, .short rest rfl frame.inv phase (left ▸ Nat.lt_succ_self _)⟩
      · have left' := Enc.push_cnt b frame.inv phase
        rw [left, List.length_cons, Nat.add_right_cancel_iff] at left'
        exact ⟨wire, reports, log, queue,
          .inFrame (q ++ [b]) rest rfl (by simp [payload]) (frame.push b phase empty) left' silent⟩
  | short rest commands inv phase few =>
    cases rest with
    | nil => cases commands
    | cons c rest =>
      cases commands
      rw [List.length_cons] at few
      rcases execEncPush_next_of_payload phase step with rfl | ⟨-, rfl⟩
      · exact ⟨wire, reports, log, queue, .short rest rfl inv phase (Nat.lt_of_succ_lt few)⟩
      · have left' : rest.length < (t.enc.push b).cnt.toNat := by
          have := Enc.push_cnt b inv phase
          omega
        obtain ⟨phase', -⟩ := (Enc.push_phase b phase).resolve_left fun ⟨_, zero⟩ => by omega
        exact ⟨wire, reports, log, queue, .short rest rfl (Enc.push_inv b inv phase) phase' left'⟩
  | done commands => cases commands

/-- In CK_HI, CK_LO and DRAIN the whole payload has been pushed. -/
theorem Sending.pushed {e : Enc} {wire : List Byte} {reports : List Event} (h : Sending n p todo e wire reports)
    (busy : e.phase ≠ .idle) (complete : e.phase ≠ .payload) :
    todo = [] ∧ e.InFrame (lengthByte n) wire p ∧ reports = [] := by
  cases h with
  | before _ enc => exact absurd (enc ▸ rfl) busy
  | inFrame q rest commands payload frame left silent =>
    obtain rfl : rest = [] := List.length_eq_zero_iff.mp (left ▸ frame.inv.cnt_eq_zero complete)
    rw [payload, List.append_nil]
    exact ⟨commands, frame, silent⟩
  | short _ _ _ phase => exact absurd phase complete
  | done _ enc => exact absurd (enc ▸ rfl) busy

theorem Sending.of_pushed {e : Enc} {wire : List Byte} (frame : e.InFrame (lengthByte n) wire p)
    (complete : e.phase ≠ .payload) : Sending n p [] e wire [] :=
  .inFrame p [] rfl (List.append_nil p).symm frame (frame.inv.cnt_eq_zero complete) rfl

/-- ENC's internal steps append the checksum to the whole payload, and report the whole frame. -/
theorem State.SendingSince.internal (h : s.SendingSince n p todo t) (step : encStep t = .next u) :
    s.SendingSince n p todo u := by
  rcases encStep_next step with rfl | ⟨empty, phase, rfl⟩ | ⟨empty, phase, rfl⟩ | ⟨empty, phase, -, rfl⟩
  · exact h
  all_goals
    obtain ⟨wire, reports, log, queue, sending⟩ := h
    obtain ⟨rfl, frame, rfl⟩ := sending.pushed (by simp [phase]) (by simp [phase])
  · exact ⟨wire, [], log, queue, .of_pushed (frame.emitHigh phase empty) (by simp [Enc.emitHigh])⟩
  · exact ⟨wire, [], log, queue, .of_pushed (frame.emitLow phase empty) (by simp [Enc.emitLow])⟩
  · obtain ⟨whole, -⟩ := frame.drained phase empty
    have reported : ((t.setEnc Enc.reset).respond (.encDone t.enc.len)).reports =
        s.reports ++ [.encDone (lengthByte n)] := by
      rw [State.reports_respond, frame.len]
      exact congrArg (· ++ _) (queue.trans (List.append_nil _))
    exact ⟨wire, _, log, reported, .done rfl rfl whole rfl⟩

theorem State.SendingSince.accept (h : s.SendingSince n p todo t) (step : txStep .accept t = .next u) :
    s.SendingSince n p todo u := by
  rcases txStep_next step with rfl | ⟨b, -, offered, rfl⟩ | ⟨_, _, answer, -⟩
  · exact h
  · obtain ⟨wire, reports, log, queue, sending⟩ := h
    refine ⟨wire ++ [b], reports, by simp [log], queue, ?_⟩
    cases sending with
    | before _ enc => simp [enc, Enc.reset] at offered
    | inFrame q rest commands payload frame left silent =>
      exact .inFrame q rest commands payload (frame.accept offered) left silent
    | short rest commands inv phase few => exact .short rest commands (Enc.accept_inv inv) phase few
    | done _ enc => simp [enc, Enc.reset] at offered
  · cases answer

end

theorem encCommands_cons (m : Move) (ms : List Move) : encCommands (m :: ms) = encCommands [m] ++ encCommands ms := by
  cases m with
  | command i => cases i <;> rfl
  | _ => rfl

/-- Every move but a TX error takes SEND further, or leaves it where it is. -/
theorem State.SendingSince.move {s t u : State} {n : Byte} {p : List Byte} {todo : List Instr} {m : Move}
    (small : n ≠ 255) (size : n.toNat = p.length) (noError : m ≠ .tx .reject)
    (h : s.SendingSince n p (encCommands [m] ++ todo) t) (step : m.apply t = .next u) : s.SendingSince n p todo u := by
  cases m with
  | command i =>
    have step : exec i t = .next u := step
    cases i with
    | encStart k => exact h.start small size step
    | encPush b => exact h.push step
    | _ => exact h.of_sameSend (exec_sameSend (by rfl) step)
  | pop => exact h.of_sameSend (popStep_sameSend step)
  | enc => exact h.internal step
  | tx a =>
    cases a with
    | accept => exact h.accept step
    | reject => exact absurd rfl noError
  | rx => exact h.of_sameSend (rxStep_sameSend step)

theorem State.SendingSince.moves {s t u : State} {n : Byte} {p : List Byte} {ms : List Move} (small : n ≠ 255)
    (size : n.toNat = p.length) (noError : Move.tx .reject ∉ ms) (h : s.SendingSince n p (encCommands ms) t)
    (steps : applyMoves ms t = .next u) : s.SendingSince n p [] u := by
  induction ms generalizing t with
  | nil => cases steps; exact h
  | cons m ms ih =>
    obtain ⟨hm, hms⟩ := not_or.mp (mt List.mem_cons.mpr noError)
    obtain ⟨v, first, rest⟩ := applyMoves_cons_next steps
    exact ih hms ((encCommands_cons m ms ▸ h).move small size (Ne.symm hm) first) rest

theorem Move.apply_effect {m : Move} {s t : State} (h : m.apply s = .next t) : Effect s t := by
  cases m with
  | command i => exact exec_effect h
  | pop => exact popStep_effect h
  | enc => exact encStep_effect h
  | tx a => exact txStep_effect h
  | rx => exact rxStep_effect h

/-- R32: over any moves the events, popped and queued, only grow at the end. -/
theorem applyMoves_events_append {ms : List Move} {s t : State} (h : applyMoves ms s = .next t) :
    ∃ new, t.popped ++ t.rspq = s.popped ++ s.rspq ++ new := by
  induction ms generalizing s with
  | nil => cases h; exact ⟨[], (List.append_nil _).symm⟩
  | cons m ms ih =>
    obtain ⟨u, first, rest⟩ := applyMoves_cons_next h
    obtain ⟨new, -, grown⟩ := (Move.apply_effect first).events_append
    obtain ⟨more, grown'⟩ := ih rest
    exact ⟨new ++ more, by rw [grown', grown, List.append_assoc]⟩

/-- Settles O33: SEND has come to its end, since its commands are executed and ENC is in no frame. -/
theorem sendReachesTheWireUnderAnyInterleaving : Obligations.SendReachesTheWireUnderAnyInterleaving := by
  intro s t p n ms size short enc noError commands steps idle
  have small : n ≠ 255 := ne_255_of_toNat_le (size ▸ short)
  obtain ⟨new, grown⟩ := applyMoves_events_append steps
  have start : s.SendingSince n p (encCommands ms) s :=
    ⟨[], [], (List.append_nil _).symm, (List.append_nil _).symm, .before commands enc rfl rfl⟩
  obtain ⟨wire, reports, log, queue, sending⟩ := start.moves small size noError steps
  cases sending with
  | before commands => cases commands
  | inFrame _ _ _ _ frame => exact absurd idle frame.busy
  | short _ _ _ phase => cases idle.symm.trans phase
  | done _ _ whole reported =>
    have length : p.length + 1 = (lengthByte n).toNat := by rw [lengthByte_toNat small, size]
    refine ⟨_, new, compose_of_length length, whole ▸ log, grown, ?_⟩
    rw [State.reports, grown, List.filter_append] at queue
    exact (List.append_cancel_left queue).trans reported

end Sys2Proof.Machine
end

section
/-! SUPPORT. Proofs of the statements about the frame parser (42_parser.md), part 1: what parse (R150) makes of the bytes
of a frame, whole, cut short or changed in one byte (R164 to R168). -/

namespace Sys2Proof.Machine

/-! ## Words and their two bytes (R9) -/

theorem be16_toNat (h l : Byte) : (be16 h l).toNat = h.toNat * 256 + l.toNat := by
  have := h.isLt
  have := l.isLt
  simp [be16, BitVec.toNat_add, BitVec.toNat_mul]
  omega

theorem be16_inj {h l h' l' : Byte} : be16 h l = be16 h' l' ↔ h = h' ∧ l = l' := by
  have := l.isLt
  have := l'.isLt
  simp only [← BitVec.toNat_inj, be16_toNat]
  omega

theorem zext16_inj {a b : Byte} : zext16 a = zext16 b ↔ a = b := by
  simp only [← BitVec.toNat_inj, zext16_toNat]

/-! ## Reading a body (R150, step 3) -/

theorem readBody_whole (rest : List RxItem) :
    ∀ body : List Byte, readBody body.length (body.map .byte ++ rest) = .whole body rest
  | [] => rfl
  | b :: body => congrArg (BodyRead.push b) (readBody_whole rest body)

theorem readBody_cut (rest : List RxItem) :
    ∀ {got : List Byte} {k : Nat}, got.length < k → readBody k (got.map .byte ++ .endOfStream :: rest) = .cut got rest
  | [], _ + 1, _ => rfl
  | b :: _, _ + 1, short => congrArg (BodyRead.push b) (readBody_cut rest (Nat.lt_of_succ_lt_succ short))

theorem readBody_blocked :
    ∀ {got : List Byte} {k : Nat}, got.length < k → readBody k (got.map .byte) = .blocked
  | [], _ + 1, _ => rfl
  | b :: _, _ + 1, short => congrArg (BodyRead.push b) (readBody_blocked (Nat.lt_of_succ_lt_succ short))

/-! ## Parse on a length byte and what follows it (R150 to R153) -/

/-- R153: the payload and the two checksum bytes are one byte more than the length byte says. -/
theorem bodySize_eq {l : Byte} (nonzero : l ≠ 0) : l.toNat - 1 + 2 = l.toNat + 1 := by
  have := BitVec.toNat_pos_of_ne_zero nonzero
  omega

section
variable {l : Byte}

theorem parse_whole {body : List Byte} (nonzero : l ≠ 0) (size : body.length = l.toNat + 1) (rest : List RxItem) :
    parse ((l :: body).map .byte ++ rest) = some (judgeBody l body, rest) := by
  simp only [List.map_cons, List.cons_append, parse, if_neg nonzero, bodySize_eq nonzero, ← size, readBody_whole]

theorem parse_cut {got : List Byte} (nonzero : l ≠ 0) (short : got.length ≤ l.toNat) (rest : List RxItem) :
    parse ((l :: got).map .byte ++ .endOfStream :: rest) =
      some (.err (.transportError .par (l.toNat + 1) got.length), rest) := by
  simp only [List.map_cons, List.cons_append, parse, if_neg nonzero, bodySize_eq nonzero,
    readBody_cut rest (Nat.lt_succ_of_le short)]

theorem parse_blocked {got : List Byte} (nonzero : l ≠ 0) (short : got.length ≤ l.toNat) :
    parse ((l :: got).map .byte) = none := by
  simp only [List.map_cons, parse, if_neg nonzero, bodySize_eq nonzero, readBody_blocked (Nat.lt_succ_of_le short)]

/-- What a frame with length byte `l` is reported as: FRAME when the checksum computed is the one received, else
ChecksumMismatch with both (R150, step 5; R161). -/
def verdict (l : Byte) (payload : List Byte) (expected actual : Word) : Event :=
  if expected = actual then .frame l payload actual else .err (.checksumMismatch expected actual)

theorem verdict_match (payload : List Byte) (ck : Word) : verdict l payload ck ck = .frame l payload ck := if_pos rfl

theorem verdict_mismatch {expected actual : Word} (differ : expected ≠ actual) (payload : List Byte) :
    verdict l payload expected actual = .err (.checksumMismatch expected actual) := if_neg differ

theorem judgeBody_append {payload : List Byte} (size : payload.length + 1 = l.toNat) (h c : Byte) :
    judgeBody l (payload ++ [h, c]) = verdict l payload (checksum (l :: payload)) (be16 h c) := by
  have payloadSize : l.toNat - 1 = payload.length := by omega
  simp only [judgeBody, payloadSize, List.take_left, List.drop_left, List.getD_cons_zero, List.getD_cons_succ, verdict]

/-- Parse of a whole frame, right or wrong: the two bytes after the payload are compared with its checksum. -/
theorem parse_frame {payload : List Byte} (size : payload.length + 1 = l.toNat) (h c : Byte) (rest : List RxItem) :
    parse ((l :: (payload ++ [h, c])).map .byte ++ rest) =
      some (verdict l payload (checksum (l :: payload)) (be16 h c), rest) := by
  have nonzero : l ≠ 0 := by rintro rfl; exact Nat.succ_ne_zero _ size
  have bodySize : (payload ++ [h, c]).length = l.toNat + 1 := by rw [← size]; simp
  rw [parse_whole nonzero bodySize, judgeBody_append size]

end

/-- R167: parse reads back the frame that compose makes. -/
theorem parse_frameBytes {l : Byte} {p : List Byte} (size : p.length + 1 = l.toNat) (rest : List RxItem) :
    parse ((frameBytes l p).map .byte ++ rest) = some (.frame l p (checksum (l :: p)), rest) := by
  have h := parse_frame size (hi (checksum (l :: p))) (lo (checksum (l :: p))) rest
  rwa [be16_hi_lo, verdict_match] at h

/-- Settles O43: compose gives the frame whose length byte is the payload's size and one more. -/
theorem parseReadsBackComposedFrames : Obligations.ParseReadsBackComposedFrames := by
  intro p rest small
  have size := lengthByte_ofNat small
  exact ⟨_, _, compose_of_length size.symm, size, parse_frameBytes size.symm rest⟩

/-! ## A changed byte (R168) -/

theorem eq_frameBytes_of_compose {p f : List Byte} (h : compose p = .ok f) :
    ∃ l : Byte, p.length + 1 = l.toNat ∧ f = frameBytes l p := by
  by_cases small : p.length ≤ 254
  · have size := (lengthByte_ofNat small).symm
    rw [compose_of_length size] at h
    cases h
    exact ⟨_, size, rfl⟩
  · rw [compose_of_big (by omega)] at h
    cases h

theorem sum16_set {p : List Byte} {i : Nat} (inside : i < p.length) (b : Byte) :
    sum16 (p.set i b) = sum16 p + (-zext16 p[i] + zext16 b) := by
  rw [sum16_eq_sum, sum16_eq_sum, List.map_set, List.sum_set', dif_pos (by simpa using inside), List.getElem_map]

/-- R110: one byte changed in the payload changes the checksum. -/
theorem checksum_set_ne {b : Byte} {p : List Byte} {i : Nat} (inside : i < p.length) (change : p[i] ≠ b) (l : Byte) :
    checksum (l :: p.set i b) ≠ checksum (l :: p) := by
  intro same
  simp only [checksum_eq_neg, sum16_cons, neg_inj, add_right_inj, sum16_set inside, add_eq_left] at same
  exact change (zext16_inj.mp (neg_add_eq_zero.mp same))

/-- A change of one byte after the length byte leaves a body of the same size, whose last two bytes are not the checksum:
either the payload's sum or the word compared with it has changed. -/
theorem body_set {l b h c : Byte} {p : List Byte} {i : Nat} (ck : checksum (l :: p) = be16 h c)
    (inside : i < p.length + 2) (change : (p ++ [h, c])[i]? ≠ some b) :
    ∃ p' h' c', (p ++ [h, c]).set i b = p' ++ [h', c'] ∧ p'.length = p.length ∧ checksum (l :: p') ≠ be16 h' c' := by
  obtain payload | rfl | rfl : i < p.length ∨ i = p.length ∨ i = p.length + 1 := by omega
  · have differ : p[i] ≠ b := by simpa [List.getElem?_append_left payload, payload] using change
    exact ⟨p.set i b, h, c, List.set_append_left _ _ payload, List.length_set, ck ▸ checksum_set_ne payload differ l⟩
  · have differ : h ≠ b := by simpa using change
    exact ⟨p, b, c, by simp, rfl, by simp [ck, be16_inj, differ]⟩
  · have differ : c ≠ b := by simpa using change
    exact ⟨p, h, b, by simp, rfl, by simp [ck, be16_inj, differ]⟩

/-- Settles O44: a changed byte of the body is judged, and one of the length byte changes where the body ends. -/
theorem tamperedFramesAreCaught : Obligations.TamperedFramesAreCaught := by
  refine ⟨fun p f i b rest composed offset inside change => ?_, fun p f b composed => ?_, by decide, by decide⟩
  · obtain ⟨l, size, rfl⟩ := eq_frameBytes_of_compose composed
    obtain ⟨i, rfl⟩ := Nat.exists_eq_add_one_of_ne_zero (Nat.ne_zero_of_lt offset)
    rw [frameBytes_length] at inside
    obtain ⟨p', h, c, body, size', differ⟩ := body_set (be16_hi_lo (checksum (l :: p))).symm (by omega) change
    refine ⟨_, _, ?_, differ⟩
    rw [← verdict_mismatch differ p', ← parse_frame (size' ▸ size), ← body]
    rfl
  · obtain ⟨l, size, rfl⟩ := eq_frameBytes_of_compose composed
    refine ⟨?_, fun larger => ?_⟩
    · rintro rfl
      rfl
    · refine parse_blocked (l := b) (got := p ++ [_, _]) ?_ ?_
      · rintro rfl
        exact Nat.not_lt_zero _ larger
      · simpa [Nat.succ_le_iff] using larger

end Sys2Proof.Machine
end

section
/-! SUPPORT. Proofs of the statements about the frame parser (42_parser.md), part 2: an equation for each case of
PAR_START (R158) and of the RX transfer (R157, R159 to R162), and what a FRAME event says of the items received (R163). -/

namespace Sys2Proof.Machine

/-! ## PAR_START (R158) -/

theorem statusWord_parPhase (e : Enc) (p : Par) : (statusWord e p).extractLsb' 4 2 = p.phase.code.setWidth 2 := by
  unfold statusWord
  generalize e.phase = encPhase, e.obufFull = full, p.phase = parPhase
  cases encPhase <;> cases full <;> cases parPhase <;> decide

theorem execParStart_of_idle {s : State} (idle : s.par.phase = .idle) :
    execParStart s = .next (s.setPar { s.par with phase := .len }) := by
  rw [execParStart, if_neg (not_not.mpr idle)]

theorem execParStart_of_armed {s : State} (armed : s.par.phase ≠ .idle) :
    execParStart s = raiseOrHold parStartWord (.sequenceError .par parStartWord s.par.phase.code) s := by
  rw [execParStart, if_pos armed]

/-- Settles O36: in IDLE PAR_START is one update of PAR; while PAR is armed it raises its error or holds. -/
theorem parStartArmsTheParser : Obligations.ParStartArmsTheParser := by
  refine ⟨decodeOfEncodeIsTheInstruction .parStart, fun _ s op other => runCode_of_bare_op op (by decide) other s,
    fun s => ⟨fun idle => ?_, fun armed room => ?_, fun armed full => ?_⟩⟩
  · exact ⟨_, execParStart_of_idle idle, rfl, statusWord_parPhase _ _, rfl⟩
  · exact (execParStart_of_armed armed).trans (raiseOrHold_of_room room _ _)
  · exact (execParStart_of_armed armed).trans (raiseOrHold_of_full full _ _)

/-! ## What PAR makes of an item (R159 to R162) -/

/-- The cases of an item that PAR, armed, takes: its registers after it, and the event of the step, if any. PAR.buf
before the last byte is what R29 makes it (`Par.Inv.buf_before_last`). -/
inductive Par.RxCase (p : Par) : RxItem → Par × Option Event → Prop where
  | endOfLen (phase : p.phase = .len) :
      p.RxCase .endOfStream ({ p with phase := .idle }, some (.err (.transportError .par 1 0)))
  | zeroLength (phase : p.phase = .len) :
      p.RxCase (.byte 0) ({ p with phase := .idle }, some (.err (.malformedFrame 0)))
  | length (l : Byte) (phase : p.phase = .len) (nonzero : l ≠ 0) :
      p.RxCase (.byte l)
        ({ phase := .body, len := l, rem := remainingAfter l, acc := accumulate 0x0000 l, buf := [] }, none)
  | endOfBody (phase : p.phase = .body) :
      p.RxCase .endOfStream (Par.reset, some (.err (.transportError .par (p.len.toNat + 1) p.buf.length)))
  | bodyByte (b : Byte) (phase : p.phase = .body) (more : 1 < p.rem.toNat) : p.RxCase (.byte b) (p.takeByte b, none)
  | lastByte (b : Byte) (payload : List Byte) (h : Byte) (phase : p.phase = .body) (last : p.rem = 1)
      (buf : p.buf = payload ++ [h]) (size : payload.length + 1 = p.len.toNat) :
      p.RxCase (.byte b) (Par.reset, some (verdict p.len payload (checksumOf p.acc) (be16 h b)))

section
variable {p q : Par} {x : RxItem} {m : Par × Option Event}

/-- R161 reads the two checksum bytes at `PAR.len - 1` and `PAR.len` of the body. -/
theorem Par.judge_eq_verdict {payload : List Byte} {h : Byte} (buf : p.buf = payload ++ [h])
    (size : payload.length + 1 = p.len.toNat) (b : Byte) :
    p.judge b = .ok (verdict p.len payload (checksumOf p.acc) (be16 h b)) := by
  simp [Par.judge, buf, ← size, verdict, apply_ite]

theorem Par.RxCase.takes (h : p.RxCase x m) : p.Takes x m := by
  cases h with
  | endOfLen phase | zeroLength phase => exact .inl ⟨phase, rfl⟩
  | length l phase nonzero => exact .inl ⟨phase, by rw [Par.takeLen, if_neg nonzero]⟩
  | endOfBody phase => exact .inr ⟨phase, rfl⟩
  | bodyByte b phase more => exact .inr ⟨phase, by rw [Par.takeBody, if_pos more]⟩
  | lastByte b payload h phase last buf size =>
    exact .inr ⟨phase, by simp [Par.takeBody, last, Par.judge_eq_verdict buf size]⟩

theorem Par.Inv.rem_pos (inv : p.Inv) (phase : p.phase = .body) : 1 ≤ p.rem.toNat := by
  obtain ⟨-, body⟩ := inv
  obtain ⟨-, positive, -, -⟩ := body phase
  exact positive

/-- R29: before the last byte PAR.buf holds the payload and the checksum high byte. -/
theorem Par.Inv.buf_before_last (inv : p.Inv) (phase : p.phase = .body) (last : p.rem = 1) :
    ∃ payload h, p.buf = payload ++ [h] ∧ payload.length + 1 = p.len.toNat := by
  obtain ⟨-, body⟩ := inv
  obtain ⟨positive, -, count, -⟩ := body phase
  have length : p.buf.length = p.len.toNat := by
    rw [last] at count
    exact Nat.succ.inj count
  obtain ⟨payload, h, buf⟩ := (List.eq_nil_or_concat' p.buf).resolve_left fun empty => by simp [empty] at length; omega
  exact ⟨payload, h, buf, by simpa [buf] using length⟩

/-- R29: PAR.acc then stands for the checksum of the length byte and the payload. -/
theorem Par.Inv.checksumOf_acc (inv : p.Inv) (phase : p.phase = .body) {payload : List Byte} {h : Byte}
    (buf : p.buf = payload ++ [h]) (size : payload.length + 1 = p.len.toNat) :
    checksumOf p.acc = checksum (p.len :: payload) := by
  obtain ⟨-, body⟩ := inv
  obtain ⟨-, -, -, acc⟩ := body phase
  rw [acc, buf, ← size, Nat.add_sub_cancel, List.take_left]
  rfl

/-- Where R29 holds, PAR takes any item, in one of the cases (R159 to R162). -/
theorem Par.Inv.rxCase (inv : p.Inv) (armed : p.phase ≠ .idle) (x : RxItem) : ∃ m, p.RxCase x m := by
  cases phase : p.phase with
  | idle => exact absurd phase armed
  | len =>
    cases x with
    | endOfStream => exact ⟨_, .endOfLen phase⟩
    | byte l =>
      by_cases nonzero : l = 0
      · exact nonzero ▸ ⟨_, .zeroLength phase⟩
      · exact ⟨_, .length l phase nonzero⟩
  | body =>
    cases x with
    | endOfStream => exact ⟨_, .endOfBody phase⟩
    | byte b =>
      by_cases more : 1 < p.rem.toNat
      · exact ⟨_, .bodyByte b phase more⟩
      · have last : p.rem = 1 := BitVec.eq_of_toNat_eq (Nat.le_antisymm (Nat.le_of_not_lt more) (inv.rem_pos phase))
        obtain ⟨payload, h, buf, size⟩ := inv.buf_before_last phase last
        exact ⟨_, .lastByte b payload h phase last buf size⟩

theorem Par.Takes.armed (h : p.Takes x m) : p.phase ≠ .idle := by
  rcases h with ⟨phase, -⟩ | ⟨phase, -⟩ <;> simp [phase]

/-- An item leads to one outcome. -/
theorem Par.Takes.unique {m' : Par × Option Event} (h : p.Takes x m) (h' : p.Takes x m') : m = m' := by
  rcases h with ⟨phase, rfl⟩ | ⟨phase, h⟩ <;> rcases h' with ⟨phase', rfl⟩ | ⟨phase', h'⟩
  · rfl
  · cases phase.symm.trans phase'
  · cases phase.symm.trans phase'
  · exact Except.ok.inj (h.symm.trans h')

/-- Where R29 holds, the cases are all that PAR can make of an item. -/
theorem Par.Takes.rxCase (h : p.Takes x m) (inv : p.Inv) : p.RxCase x m := by
  obtain ⟨m', case⟩ := inv.rxCase h.armed x
  exact h.unique case.takes ▸ case

theorem Par.takeByte_rem {b : Byte} (more : 1 < p.rem.toNat) : (p.takeByte b).rem.toNat = p.rem.toNat - 1 := by
  have := p.rem.isLt
  simp [Par.takeByte, BitVec.toNat_sub]
  omega

end

/-! ## The RX transfer (R157) -/

section
variable {s : State} {x : RxItem} {rest : List RxItem} {q : Par} {ev : Event}

theorem rxStep_of_idle (idle : s.par.phase = .idle) : rxStep s = .next s := by
  unfold rxStep
  split
  · rfl
  · rw [idle]; rfl

theorem rxStep_of_nothing (nothing : s.linkRx = []) : rxStep s = .next s := by
  simp only [rxStep, nothing, notEnabled]

theorem rxStep_of_takes {m : Par × Option Event} (offered : s.linkRx = x :: rest) (takes : s.par.Takes x m) :
    rxStep s = parTakes x rest m.1 m.2 s := by
  rcases takes with ⟨phase, rfl⟩ | ⟨phase, takes⟩
  · simp only [rxStep, offered, phase]
  · simp only [rxStep, offered, phase, takes]

theorem rxStep_quiet (offered : s.linkRx = x :: rest) (case : s.par.RxCase x (q, none)) :
    rxStep s = .next ((s.takeItem x rest).setPar q) :=
  rxStep_of_takes offered case.takes

theorem rxStep_report (offered : s.linkRx = x :: rest) (case : s.par.RxCase x (q, some ev)) :
    rxStep s = if s.full then .next s else .next (((s.takeItem x rest).setPar q).respond ev) :=
  rxStep_of_takes offered case.takes

theorem rxStep_report_of_room (offered : s.linkRx = x :: rest) (case : s.par.RxCase x (q, some ev))
    (room : s.full = false) : rxStep s = .next (((s.takeItem x rest).setPar q).respond ev) := by
  rw [rxStep_report offered case, room, if_neg Bool.false_ne_true]

theorem rxStep_report_of_full (offered : s.linkRx = x :: rest) (case : s.par.RxCase x (q, some ev))
    (full : s.full = true) : rxStep s = .next s := by
  rw [rxStep_report offered case, if_pos full]

end

/-- Settles O37: each of the steps named would append an event. -/
theorem rxWaitsUnlessArmedAndOffered : Obligations.RxWaitsUnlessArmedAndOffered := by
  refine fun s => ⟨fun blocked => blocked.elim rxStep_of_idle rxStep_of_nothing, fun x rest offered full ends => ?_⟩
  rcases ends with ⟨phase, rfl | rfl⟩ | ⟨phase, rfl | ⟨last, inv⟩⟩
  · exact rxStep_report_of_full offered (.endOfLen phase) full
  · exact rxStep_report_of_full offered (.zeroLength phase) full
  · exact rxStep_report_of_full offered (.endOfBody phase) full
  · cases x with
    | endOfStream => exact rxStep_report_of_full offered (.endOfBody phase) full
    | byte b =>
      obtain ⟨payload, h, buf, size⟩ := inv.buf_before_last phase last
      exact rxStep_report_of_full offered (.lastByte b payload h phase last buf size) full

/-- Settles O38: the three cases of an item in LEN. -/
theorem rxInLenTakesTheLengthByte : Obligations.RxInLenTakesTheLengthByte := by
  refine fun s rest phase => ⟨fun offered room => ?_, fun offered room => ?_, fun l nonzero offered => ?_⟩
  · exact rxStep_report_of_room offered (.endOfLen phase) room
  · exact rxStep_report_of_room offered (.zeroLength phase) room
  · exact ⟨_, remainingAfter_toNat nonzero, rxStep_quiet offered (.length l phase nonzero)⟩

/-- Settles O39: a byte that is not the last is one update of PAR. -/
theorem rxInBodyTakesAByte : Obligations.RxInBodyTakesAByte := by
  intro s b rest phase offered more
  refine ⟨_, rxStep_quiet offered (.bodyByte b phase more), rfl, Par.takeByte_rem more, ?_, phase, rfl, rfl⟩
  have payload_iff : s.par.buf.length + 1 < s.par.len.toNat ↔ (s.par.buf.length : Int) < s.par.len.toNat - 1 := by omega
  simp only [State.setPar_par, Par.takeByte, accumulate, payload_iff]

/-- Settles O40: R29 fixes what the last byte is judged with. -/
theorem rxOfTheLastByteJudgesTheFrame : Obligations.RxOfTheLastByteJudgesTheFrame := by
  intro s b rest inv phase offered last
  obtain ⟨payload, h, buf, size⟩ := inv.buf_before_last phase last
  exact ⟨payload, h, by simp [buf], size, inv.checksumOf_acc phase buf size,
    rxStep_report offered (.lastByte b payload h phase last buf size)⟩

/-- Settles O41: the end of the stream in BODY is reported with the number of bytes buffered. -/
theorem rxEndInBodyIsATruncatedFrame : Obligations.RxEndInBodyIsATruncatedFrame :=
  fun _ _ phase offered room => rxStep_report_of_room offered (.endOfBody phase) room

/-! ## What a FRAME event says of the items received (R161, R163) -/

theorem frameBytes_of_be16 {l h c : Byte} {p : List Byte} (ck : checksum (l :: p) = be16 h c) :
    frameBytes l p = l :: p ++ [h, c] := by
  obtain ⟨rfl, rfl⟩ := be16_inj.mp ((be16_hi_lo _).trans ck)
  rfl

theorem verdict_eq_frame_iff {l l' : Byte} {p p' : List Byte} {expected actual ck : Word} :
    verdict l p expected actual = .frame l' p' ck ↔ expected = actual ∧ l = l' ∧ p = p' ∧ actual = ck := by
  unfold verdict
  split <;> simp [*]

/-- FRAME comes with a last byte that completes the frame reported. -/
theorem Par.RxCase.completes_frame {p q : Par} {x : RxItem} {ev : Event} {l : Byte} {payload : List Byte} {ck : Word}
    (h : p.RxCase x (q, some ev)) (inv : p.Inv) (frame : ev = .frame l payload ck) :
    ∃ b, x = .byte b ∧ p.phase = .body ∧ payload.length + 1 = l.toNat ∧
      frameBytes l payload = p.len :: p.buf ++ [b] := by
  cases h with
  | endOfLen | zeroLength | endOfBody => cases frame
  | lastByte b payload' h phase last buf size =>
    obtain ⟨same, rfl, rfl, -⟩ := verdict_eq_frame_iff.mp frame
    refine ⟨b, rfl, phase, size, ?_⟩
    rw [frameBytes_of_be16 ((inv.checksumOf_acc phase buf size).symm.trans same), buf]
    simp

/-- Settles O45: the length byte, PAR.buf and the last byte are the frame reported, and the end of RXLOG. -/
theorem frameEventMeansAComposedFrameArrived : Obligations.FrameEventMeansAComposedFrameArrived := by
  intro s t len payload ck hs step grown
  rcases rxStep_next step with rfl | ⟨x, rest, ⟨q, ev?⟩, -, takes, ⟨rfl, rfl⟩ | ⟨ev, rfl, -, rfl⟩⟩
  · simp at grown
  · simp at grown
  · have frame : ev = .frame len payload ck := by simpa using grown
    have case := Par.Takes.rxCase takes hs.par
    obtain ⟨b, rfl, phase, size, bytes⟩ := case.completes_frame hs.par frame
    obtain ⟨before, log⟩ := hs.parWire phase
    exact ⟨before, _, compose_of_length size, by simp [log, bytes]⟩

end Sys2Proof.Machine
end

section
/-! SUPPORT. Proofs of the statements about the frame parser (42_parser.md), part 3: PAR computes parse (R163). The items
PAR has taken of the frame in progress (`Par.soFar`) and those still to come are one stream: an RX step moves an item from
the second part to the first, and the step that ends the frame appends the event parse gives on the whole. -/

namespace Sys2Proof.Machine

/-! ## The items of the frame in progress -/

/-- The items PAR has taken of the frame in progress: the length byte and the bytes of PAR.buf (R28, R163). -/
def Par.soFar (p : Par) : List RxItem := if p.phase = .body then (p.len :: p.buf).map .byte else []

section
variable {p q : Par} {x : RxItem} {ev : Event}

theorem Par.soFar_of_len (phase : p.phase = .len) : p.soFar = [] := by simp [Par.soFar, phase]

theorem Par.soFar_of_body (phase : p.phase = .body) : p.soFar = (p.len :: p.buf).map .byte := if_pos phase

/-- The items of the frame in progress are the end of RXLOG. -/
theorem Par.onWire_soFar (p : Par) : p.OnWire p.soFar := fun phase => ⟨[], Par.soFar_of_body phase⟩

theorem Par.RxCase.inv {m : Par × Option Event} (h : p.RxCase x m) (inv : p.Inv) : m.1.Inv :=
  (h.takes.kept inv p.onWire_soFar).inv

/-- R29: in BODY there is a length byte, and a byte is missing. -/
theorem Par.Inv.body_unfinished (inv : p.Inv) (phase : p.phase = .body) : p.len ≠ 0 ∧ p.buf.length ≤ p.len.toNat := by
  obtain ⟨-, body⟩ := inv
  obtain ⟨positive, missing, count, -⟩ := body phase
  exact ⟨by rintro zero; simp [zero] at positive, by omega⟩

/-- R29: outside BODY PAR's registers but for the phase are those of the reset. -/
theorem Par.Inv.eq_reset_of_len (inv : p.Inv) (phase : p.phase = .len) : { p with phase := .idle } = Par.reset := by
  obtain ⟨rest, -⟩ := inv
  obtain ⟨len, rem, acc, buf⟩ := rest (by simp [phase])
  simp [Par.reset, len, rem, acc, buf]

/-- While PAR is armed parse is not finished with what PAR has taken. -/
theorem Par.Inv.parse_soFar (inv : p.Inv) (armed : p.phase ≠ .idle) : parse p.soFar = none := by
  cases phase : p.phase with
  | idle => exact absurd phase armed
  | len => rw [Par.soFar_of_len phase]; rfl
  | body =>
    obtain ⟨nonzero, short⟩ := inv.body_unfinished phase
    rw [Par.soFar_of_body phase, parse_blocked nonzero short]

/-- A step without an event leaves PAR armed, with one more item taken. -/
theorem Par.RxCase.quiet (h : p.RxCase x (q, none)) :
    q.phase ≠ .idle ∧ ∀ items, q.soFar ++ items = p.soFar ++ x :: items := by
  cases h with
  | length l phase nonzero =>
    exact ⟨by simp, fun items => by rw [Par.soFar_of_len phase, Par.soFar_of_body rfl]; rfl⟩
  | bodyByte b phase more =>
    have phase' : (p.takeByte b).phase = .body := phase
    refine ⟨by simp [phase'], fun items => ?_⟩
    rw [Par.soFar_of_body phase, Par.soFar_of_body phase']
    simp [Par.takeByte]

/-- A step with an event ends the frame as parse does, and resets PAR. -/
theorem Par.RxCase.report (h : p.RxCase x (q, some ev)) (inv : p.Inv) :
    q = Par.reset ∧ ∀ rest, parse (p.soFar ++ x :: rest) = some (ev, rest) := by
  cases h with
  | endOfLen phase | zeroLength phase =>
    exact ⟨inv.eq_reset_of_len phase, fun rest => by rw [Par.soFar_of_len phase]; rfl⟩
  | endOfBody phase =>
    obtain ⟨nonzero, short⟩ := inv.body_unfinished phase
    exact ⟨rfl, fun rest => by rw [Par.soFar_of_body phase, parse_cut nonzero short]⟩
  | lastByte b payload h phase last buf size =>
    refine ⟨rfl, fun rest => ?_⟩
    rw [inv.checksumOf_acc phase buf size, ← parse_frame size, Par.soFar_of_body phase, buf]
    simp

end

/-! ## A schedule of RX steps (R163) -/

/-- `s` further on: PAR holds `p` and has taken the items `read`, and `items` and `turns` are still to come. -/
def State.receiving (s : State) (p : Par) (read items : List RxItem) (turns : List Turn) : State :=
  { s with par := p, rxlog := s.rxlog ++ read, linkRx := items, turns := turns }

section
variable {s : State} {p q : Par} {x : RxItem} {read items rest : List RxItem} {ev : Event} {ts : List Turn}

theorem step_quiet (case : p.RxCase x (q, none)) :
    step (s.receiving p read (x :: items) (.rx :: ts)) = .next (s.receiving q (read ++ [x]) items ts) := by
  rw [step_of_cons (t := .rx) (ts := ts) rfl]
  refine (rxStep_quiet (s := s.receiving p read (x :: items) ts) rfl case).trans ?_
  simp only [State.receiving, State.takeItem, State.setPar, List.append_assoc]

theorem step_report (room : s.full = false) (case : p.RxCase x (q, some ev)) :
    step (s.receiving p read (x :: items) (.rx :: ts)) = .next ((s.receiving q (read ++ [x]) items ts).respond ev) := by
  rw [step_of_cons (t := .rx) (ts := ts) rfl]
  refine (rxStep_report_of_room (s := s.receiving p read (x :: items) ts) rfl case room).trans ?_
  simp only [State.receiving, State.takeItem, State.setPar, List.append_assoc]

/-- Where parse ends, PAR takes the items parse reads, appends the event parse gives and is at its reset values. -/
theorem run_receiving_of_parse (room : s.full = false) (ts : List Turn) (inv : p.Inv) (armed : p.phase ≠ .idle)
    (parsed : parse (p.soFar ++ items) = some (ev, rest)) :
    ∃ new, items = new ++ rest ∧
      run new.length (s.receiving p read items (List.replicate new.length .rx ++ ts)) =
        .next ((s.receiving Par.reset (read ++ new) rest ts).respond ev) := by
  induction items generalizing p read with
  | nil =>
    rw [List.append_nil, inv.parse_soFar armed] at parsed
    cases parsed
  | cons x items ih =>
    obtain ⟨⟨q, ev?⟩, case⟩ := inv.rxCase armed x
    cases ev? with
    | none =>
      obtain ⟨armed', soFar⟩ := case.quiet
      obtain ⟨new, rfl, hrun⟩ := ih (read := read ++ [x]) (case.inv inv) armed' ((soFar _).symm ▸ parsed)
      rw [List.append_assoc, List.singleton_append] at hrun
      exact ⟨x :: new, rfl, (run_succ _ (step_quiet case)).trans hrun⟩
    | some ev' =>
      obtain ⟨rfl, ends⟩ := case.report inv
      cases (ends items).symm.trans parsed
      exact ⟨[x], rfl, run_succ 0 (step_report room case)⟩

/-- While parse does not end, PAR takes every item, appends nothing and stays armed. -/
theorem run_receiving_of_blocked (ts : List Turn) (inv : p.Inv) (armed : p.phase ≠ .idle)
    (blocked : parse (p.soFar ++ items) = none) :
    ∃ q, q.phase ≠ .idle ∧ run items.length (s.receiving p read items (List.replicate items.length .rx ++ ts)) =
      .next (s.receiving q (read ++ items) [] ts) := by
  induction items generalizing p read with
  | nil => exact ⟨p, armed, by rw [List.append_nil]; rfl⟩
  | cons x items ih =>
    obtain ⟨⟨q, ev?⟩, case⟩ := inv.rxCase armed x
    cases ev? with
    | none =>
      obtain ⟨armed', soFar⟩ := case.quiet
      obtain ⟨q', armed'', hrun⟩ := ih (read := read ++ [x]) (case.inv inv) armed' ((soFar _).symm ▸ blocked)
      rw [List.append_assoc, List.singleton_append] at hrun
      exact ⟨q', armed'', (run_succ _ (step_quiet case)).trans hrun⟩
    | some ev =>
      obtain ⟨-, ends⟩ := case.report inv
      cases (ends items).symm.trans blocked

end

/-- PAR at its reset values, once PAR_START has armed it (R158). -/
def Par.listening : Par := { Par.reset with phase := .len }

theorem Par.listening_inv : Par.listening.Inv := Par.setPhase_inv Par.reset_inv (by decide) (by decide)

/-- Settles O42: PAR_START arms PAR with no item taken, and the schedule is that of `run_receiving_of_parse`. -/
theorem parComputesParse : Obligations.ParComputesParse := by
  intro s ts atReset room
  have start : s.setPar { s.par with phase := .len } = s.receiving Par.listening [] s.linkRx s.turns := by
    simp [State.receiving, State.setPar, Par.listening, atReset]
  refine ⟨_, execParStart_of_idle (by rw [atReset]; rfl), fun ev rest parsed turns => ?_, fun blocked turns => ?_⟩
  · obtain ⟨new, items, hrun⟩ := run_receiving_of_parse (items := s.linkRx) (read := []) room ts Par.listening_inv
      (by decide) parsed
    have taken : s.linkRx.length - rest.length = new.length := by simp [items]
    have new_eq : s.linkRx.take new.length = new := by rw [items, List.take_left]
    rw [taken] at turns
    simp only [taken, new_eq, start]
    refine ⟨items, ?_⟩
    rw [turns, hrun, List.nil_append, ← atReset]
    rfl
  · obtain ⟨q, armed, hrun⟩ := run_receiving_of_blocked (s := s) (read := []) ts Par.listening_inv (by decide) blocked
    rw [start, turns]
    exact ⟨_, hrun, rfl, rfl, armed⟩

end Sys2Proof.Machine
end

section
/-! SUPPORT. Proofs of the statements about the catalog (43_catalog.md): a catalog entry is SEND of the payload of its
opcode, so its effect on the wire is that of SEND (R134). -/

namespace Sys2Proof.Machine

/-- R180: an instruction whose code is a catalog opcode sends the payload of that opcode. -/
theorem exec_of_encode_frame {i : Instr} {opcode : Byte} (code : encode i = .frame opcode) (s : State) :
    exec i s = hostSends (catalogPayload opcode) s := by
  cases i with
  | aimOn | aimOff | illuminationOn | illuminationOff | capabilitiesRequest => cases code; rfl
  | nop | ckClr | ckAdd | ckRd | encStart | encPush | parStart | statRd => cases code

/-- Settles O46: in each row the words are those of SEND of the payload, and the frame of the payload is computed. -/
theorem catalogEntriesExpandToTheirCommands : Obligations.CatalogEntriesExpandToTheirCommands := by
  intro s
  simp only [List.forall_mem_cons]
  refine ⟨⟨?_, by decide⟩, ⟨?_, by decide⟩, ⟨?_, by decide⟩, ⟨?_, by decide⟩, ⟨?_, by decide⟩, List.forall_mem_nil _⟩
  all_goals exact (exec_of_encode_frame rfl s).trans rfl

/-- The step in which the HOST issues an instruction's own code on a free port (R190). -/
theorem step_issue_encode {s : State} {i : Instr} {later : List HostAct} {ts : List Turn} (port : s.port = none)
    (script : s.hostq = .issue (encode i) :: later) (turns : s.turns = .host :: ts) :
    step s = exec i { s with hostq := later, turns := ts } := by
  rw [step_of_cons turns, fire, hostStep]
  simp only [script, port]
  exact runCode_of_decode (decodeOfEncodeIsTheInstruction i) _

/-- One step puts SEND of the payload at the head of the script, and the schedule of an accepting LINK runs it (R134). -/
theorem run_catalogEntry {s : State} {i : Instr} {opcode : Byte} {f : List Byte} {later : List HostAct} {ts : List Turn}
    (code : encode i = .frame opcode) (framed : compose (catalogPayload opcode) = .ok f) (enc : s.enc = Enc.reset)
    (port : s.port = none) (room : s.full = false) (script : s.hostq = .issue (encode i) :: later)
    (turns : s.turns = .host :: sendTurns 3 ++ ts) :
    run 14 s = .next { s with
      txlog := s.txlog ++ f, rspq := s.rspq ++ [.encDone 0x04], hostq := later, turns := ts } := by
  have expand := (step_issue_encode port script turns).trans (exec_of_encode_frame code _)
  obtain ⟨f', l, framed', size, sent⟩ := sendPutsTheComposedFrameOnTheWire
    { s with hostq := (sendWords (catalogPayload opcode)).map issueWord ++ later, turns := sendTurns 3 ++ ts }
    (catalogPayload opcode) later ts (by decide : 3 ≤ 254) enc port room rfl rfl
  have same : f' = f := Except.ok.inj (framed'.symm.trans framed)
  have four : l = 0x04 := BitVec.eq_of_toNat_eq size
  rw [same, four] at sent
  exact (run_succ 13 expand).trans sent

/-- Settles O47: each row is a catalog entry whose payload has the row's wire bytes as its frame. -/
theorem catalogFramesReachTheWire : Obligations.CatalogFramesReachTheWire := by
  intro s later ts
  simp only [List.forall_mem_cons]
  exact ⟨run_catalogEntry rfl (by decide), run_catalogEntry rfl (by decide), run_catalogEntry rfl (by decide),
    run_catalogEntry rfl (by decide), run_catalogEntry rfl (by decide), List.forall_mem_nil _⟩

end Sys2Proof.Machine
end

section
/-! SUPPORT. Proofs of the statements about command execution (44_control.md), part 1: which instruction a word is (R191,
R192), the steps that run it (R190), and NOP, STAT_RD and POP (R194 to R196). -/

namespace Sys2Proof

open Machine

/-! ## OP and IMM8 of an encoding (R71, R73) -/

theorem opField_commandWord (op : BitVec 4) (imm : Byte) : opField (commandWord (op ++ 0#12) imm) = op := by
  rw [← append_eq_commandWord, opField, BitVec.extractLsb'_append_eq_left]

theorem immField_commandWord (op : BitVec 4) (imm : Byte) : immField (commandWord (op ++ 0#12) imm) = imm := by
  rw [← append_eq_commandWord, immField, BitVec.extractLsb'_append_eq_of_add_le (by decide)]
  exact BitVec.extractLsb'_append_eq_right

/-- Settles O4: a word that decodes is the encoding of its instruction, and OP and IMM8 of each encoding are known. -/
theorem opSelectsTheInstruction : Obligations.OpSelectsTheInstruction := by
  intro w i h
  have code := encode_of_decodeWord h
  cases i with
  | aimOn | aimOff | illuminationOn | illuminationOff | capabilitiesRequest => cases code
  | nop => cases code; exact .inl ⟨rfl, rfl⟩
  | ckClr => cases code; exact .inr (.inl ⟨rfl, rfl⟩)
  | ckAdd b =>
    cases code
    exact .inr (.inr (.inl ⟨opField_commandWord 0x2 b, congrArg _ (immField_commandWord 0x2 b).symm⟩))
  | ckRd => cases code; exact .inr (.inr (.inr (.inl ⟨rfl, rfl⟩)))
  | encStart n =>
    cases code
    exact .inr (.inr (.inr (.inr (.inl
      ⟨opField_commandWord 0x4 n, congrArg _ (immField_commandWord 0x4 n).symm⟩))))
  | encPush b =>
    cases code
    exact .inr (.inr (.inr (.inr (.inr (.inl
      ⟨opField_commandWord 0x5 b, congrArg _ (immField_commandWord 0x5 b).symm⟩)))))
  | parStart => cases code; exact .inr (.inr (.inr (.inr (.inr (.inr (.inl ⟨rfl, rfl⟩))))))
  | statRd => cases code; exact .inr (.inr (.inr (.inr (.inr (.inr (.inr ⟨rfl, rfl⟩))))))

end Sys2Proof

namespace Sys2Proof.Machine

/-! ## Running a word (R190 to R192) -/

theorem portStep_of_held {s : State} {w : Word} (held : s.port = some w) :
    portStep s = runCode (.cmd w) (s.setPort none) := by
  rw [portStep, held]

/-- Settles O10: the HOST's issue of a code is the issue of the instruction's encoding, and a held word is run by the port. -/
theorem stepRunsTheDecodedInstruction : Obligations.StepRunsTheDecodedInstruction := by
  refine fun s i ts => ⟨fun c later turns port script decodes => ?_, fun w turns held decodes => ?_⟩
  · obtain rfl := encode_of_decode decodes
    exact step_issue_encode port script turns
  · rw [step_of_cons turns, fire, portStep_of_held (s := { s with turns := ts }) held]
    exact runCode_of_decode (c := .cmd w) decodes _

/-- Settles O11: the three kinds of word are those the decoder rejects. -/
theorem illegalWordRaisesIllegalCommand : Obligations.IllegalWordRaisesIllegalCommand := by
  intro s w kinds
  have illegal : wordLegal w = false := Bool.eq_false_of_not_eq_true fun legal =>
    (wordDecodesExactlyWhenLegal w).mp ((decodeWord_ok_iff_wordLegal w).mpr legal) kinds
  exact ⟨runCode_of_not_wordLegal illegal s, rfl, rfl⟩

/-! ## NOP, STAT_RD and POP (R194 to R196) -/

/-- Settles O12: OP = 0 takes no operand, so 0x0000 is its one legal word. -/
theorem nopLeavesTheStateUnchanged : Obligations.NopLeavesTheStateUnchanged :=
  ⟨decodeOfEncodeIsTheInstruction .nop, fun _ s op other => runCode_of_bare_op op (by decide) other s, fun _ => rfl⟩

/-- R33: nothing but the two phases and the flag of ENC.obuf is in STATUS. -/
theorem statusWord_high (e : Enc) (p : Par) : (statusWord e p).extractLsb' 6 10 = 0 := by
  unfold statusWord
  generalize e.phase = encPhase, e.obufFull = full, p.phase = parPhase
  cases encPhase <;> cases full <;> cases parPhase <;> decide

theorem Enc.obufFull_iff (e : Enc) : e.obufFull = true ↔ ∃ b, e.obuf = some b :=
  Option.isSome_iff_exists

/-- Settles O13: STAT_RD is a response, and each field of the layout is a field of the STATUS word. -/
theorem statRdReportsTheStatusWord : Obligations.StatRdReportsTheStatusWord := by
  refine ⟨decodeOfEncodeIsTheInstruction .statRd, fun _ s op other => runCode_of_bare_op op (by decide) other s,
    fun _ => rfl, fun e p => ⟨?_, ?_, ?_, statusWord_high e p⟩⟩
  · rw [statusWord_encPhase]; rfl
  · rw [statusWord_obufFull, Enc.obufFull_iff]
  · rw [statusWord_parPhase]
    cases p.phase <;> rfl

theorem popStep_of_empty {s : State} (empty : s.rspq = []) : popStep s = .next s := by
  rw [popStep, empty]; rfl

/-- Settles O14: the two cases of the POP step. -/
theorem popHandsOverTheHeadEvent : Obligations.PopHandsOverTheHeadEvent :=
  fun _ => ⟨fun _ _ => popStep_of_cons, popStep_of_empty⟩

end Sys2Proof.Machine
end

section
/-! SUPPORT. Proofs of the statements about command execution (44_control.md), part 2: when a step holds and when it is
taken (R193, R216). For commands and words both are said once (`HoldsWhen`); that no step faults follows. -/

namespace Sys2Proof.Machine

/-! ## Commands and words (R190, R193) -/

/-- The answer `r` to the code `c` in `s`: while `blocked`, the word only stays presented; else `c` is carried out, with the
command port as it was. -/
structure HoldsWhen (blocked : Bool) (c : Code) (s : State) (r : Result) : Prop where
  held : blocked = true → ∃ w, c = .cmd w ∧ r = .next (s.setPort (some w))
  taken : blocked = false → ∃ t, r = .next t ∧ t.port = s.port

theorem HoldsWhen.of_taken {c : Code} {s t : State} {r : Result} (h : r = .next t) (port : t.port = s.port) :
    HoldsWhen false c s r :=
  ⟨fun blocked => (Bool.false_ne_true blocked).elim, fun _ => ⟨t, h, port⟩⟩

theorem HoldsWhen.of_held {w : Word} {s : State} {r : Result} (h : r = .next (s.setPort (some w))) :
    HoldsWhen true (.cmd w) s r :=
  ⟨fun _ => ⟨w, rfl, h⟩, fun free => (Bool.false_ne_true free.symm).elim⟩

theorem HoldsWhen.answers {blocked : Bool} {c : Code} {s : State} {r : Result} (h : HoldsWhen blocked c s r) :
    ∃ t, r = .next t := by
  cases blocked with
  | true =>
    obtain ⟨w, -, next⟩ := h.held rfl
    exact ⟨_, next⟩
  | false =>
    obtain ⟨t, next, -⟩ := h.taken rfl
    exact ⟨t, next⟩

theorem respondOrHold_holdsWhen (w : Word) (ev : Event) (s : State) :
    HoldsWhen s.full (.cmd w) s (respondOrHold w ev s) := by
  cases full : s.full with
  | true => exact .of_held (respondOrHold_of_full full w ev)
  | false => exact .of_taken (respondOrHold_of_room full w ev) rfl

theorem raiseOrHold_holdsWhen (w : Word) (e : ErrInfo) (s : State) :
    HoldsWhen s.full (.cmd w) s (raiseOrHold w e s) :=
  respondOrHold_holdsWhen w (.err e) s

theorem execEncStart_holdsWhen (n : Byte) (s : State) :
    HoldsWhen (s.holds (.encStart n)) (encode (.encStart n)) s (execEncStart n s) := by
  by_cases idle : s.enc.phase = .idle
  · by_cases big : n = 255
    · subst big
      have holds : s.holds (.encStart 255) = s.full := by simp [State.holds]
      rw [holds, execEncStart_of_tooLarge idle]
      exact raiseOrHold_holdsWhen ..
    · have holds : s.holds (.encStart n) = false := by
        simp only [State.holds, idle, bne_self_eq_false, beq_false_of_ne big, Bool.or_self, Bool.false_and]
      rw [holds]
      exact .of_taken (execEncStart_of_idle idle big) rfl
  · have holds : s.holds (.encStart n) = s.full := by simp [State.holds, idle]
    rw [holds, execEncStart_of_busy idle]
    exact raiseOrHold_holdsWhen ..

theorem execEncPush_holdsWhen (b : Byte) (s : State) :
    HoldsWhen (s.holds (.encPush b)) (encode (.encPush b)) s (execEncPush b s) := by
  by_cases phase : s.enc.phase = .payload
  · cases offered : s.enc.obuf with
    | some c =>
      have holds : s.holds (.encPush b) = true := by simp [State.holds, phase, Enc.obufFull, offered]
      rw [holds]
      exact .of_held (execEncPush_of_waiting phase offered b)
    | none =>
      have holds : s.holds (.encPush b) = false := by simp [State.holds, phase, Enc.obufFull, offered]
      rw [holds]
      exact .of_taken (execEncPush_of_empty phase offered b) rfl
  · have holds : s.holds (.encPush b) = s.full := by simp [State.holds, bne, beq_false_of_ne phase]
    rw [holds, execEncPush_of_wrongPhase phase]
    exact raiseOrHold_holdsWhen ..

theorem execParStart_holdsWhen (s : State) :
    HoldsWhen (s.holds .parStart) (encode .parStart) s (execParStart s) := by
  by_cases idle : s.par.phase = .idle
  · have holds : s.holds .parStart = false := by simp [State.holds, idle]
    rw [holds]
    exact .of_taken (execParStart_of_idle idle) rfl
  · have holds : s.holds .parStart = s.full := by simp [State.holds, idle]
    rw [holds, execParStart_of_armed idle]
    exact raiseOrHold_holdsWhen ..

/-- R193's table: a command holds while `State.holds` says so. -/
theorem exec_holdsWhen (i : Instr) (s : State) : HoldsWhen (s.holds i) (encode i) s (exec i s) := by
  cases i with
  | nop => exact .of_taken rfl rfl
  | ckClr => exact .of_taken rfl rfl
  | ckAdd b => exact .of_taken rfl rfl
  | ckRd => exact respondOrHold_holdsWhen ..
  | statRd => exact respondOrHold_holdsWhen ..
  | encStart n => exact execEncStart_holdsWhen n s
  | encPush b => exact execEncPush_holdsWhen b s
  | parStart => exact execParStart_holdsWhen s
  | aimOn | aimOff | illuminationOn | illuminationOff | capabilitiesRequest => exact .of_taken rfl rfl

/-- R190, R192: a word, legal or not, holds unless it is enabled. -/
theorem runCode_holdsWhen (w : Word) (s : State) :
    HoldsWhen (!s.wordEnabled w) (.cmd w) s (runCode (.cmd w) s) := by
  cases decodes : decodeWord w with
  | ok i =>
    have enabled : s.wordEnabled w = !s.holds i := by simp [State.wordEnabled, decodes]
    rw [enabled, Bool.not_not, runCode_of_decode (c := .cmd w) decodes, encode_of_decodeWord decodes]
    exact exec_holdsWhen i s
  | error r =>
    have enabled : s.wordEnabled w = !s.full := by simp [State.wordEnabled, decodes]
    rw [enabled, Bool.not_not, runCode_of_illegal decodes]
    exact raiseOrHold_holdsWhen ..

/-- Settles O16: `HoldsWhen` of the instruction's own code. -/
theorem commandsHoldExactlyAsR193Says : Obligations.CommandsHoldExactlyAsR193Says :=
  fun i s => ⟨(exec_holdsWhen i s).held, (exec_holdsWhen i s).taken⟩

/-! ## The step of a held word (R190) -/

section
variable {s : State} {w : Word}

theorem State.setPort_of_port (held : s.port = some w) : s.setPort (some w) = s := by
  rw [← held]; rfl

theorem portStep_of_not_wordEnabled (held : s.port = some w) (waits : s.wordEnabled w = false) :
    portStep s = .next s := by
  have blocked : (!(s.setPort none).wordEnabled w) = true := congrArg not waits
  obtain ⟨w', own, next⟩ := (runCode_holdsWhen w (s.setPort none)).held blocked
  cases own
  rw [portStep_of_held held, next]
  exact congrArg Host.Outcome.next (State.setPort_of_port held)

theorem portStep_of_wordEnabled (held : s.port = some w) (enabled : s.wordEnabled w = true) :
    ∃ t, portStep s = .next t ∧ t.port = none := by
  rw [portStep_of_held held]
  exact (runCode_holdsWhen w (s.setPort none)).taken (congrArg not enabled)

end

/-! ## ENC's internal step and the TX transfer (R129 to R133) -/

section
variable {s : State}

theorem encStep_of_encEnabled (enabled : s.encEnabled = true) : ∃ t, encStep s = .next t ∧ t.enc ≠ s.enc := by
  have moves {e : Enc} (other : e.phase ≠ s.enc.phase) : e ≠ s.enc := fun h => other (congrArg Enc.phase h)
  have empty : s.enc.obuf = none := by
    by_contra offered
    simp [State.encEnabled, Enc.obufFull, Option.isSome_iff_ne_none.mpr offered] at enabled
  cases phase : s.enc.phase with
  | idle => simp [State.encEnabled, phase] at enabled
  | payload => simp [State.encEnabled, phase] at enabled
  | ckHi => exact ⟨_, encStep_of_ckHi phase empty, moves (by simp [phase, Enc.emitHigh])⟩
  | ckLo => exact ⟨_, encStep_of_ckLo phase empty, moves (by simp [phase, Enc.emitLow])⟩
  | drain =>
    have room : s.full = false := by simpa [State.encEnabled, phase, Enc.obufFull, empty] using enabled
    exact ⟨_, encStep_of_drain phase empty room, moves (by simp [phase, Enc.reset])⟩

/-- R27, R133: while ENC offers a byte, that byte is among those it has emitted. -/
theorem Enc.Inv.emitted_pos {e : Enc} {b : Byte} (inv : e.Inv) (offered : e.obuf = some b) :
    ∃ sent, emitted e.phase e.len.toNat e.cnt.toNat = some (sent + 1) := by
  have busy := inv.ne_idle_of_offered offered
  obtain ⟨-, -, positive, below⟩ := inv
  cases phase : e.phase with
  | idle => exact absurd phase busy
  | payload => exact ⟨_, by rw [emitted, if_pos (below phase), Nat.add_comm]⟩
  | ckHi => exact ⟨e.len.toNat - 1, by rw [emitted, Nat.sub_add_cancel (positive busy)]⟩
  | ckLo => exact ⟨_, rfl⟩
  | drain => exact ⟨_, rfl⟩

/-- R133: the LINK's error waits while RSPQ is full, and else abandons the frame. -/
theorem txStep_reject_of_inv {b : Byte} (inv : s.enc.Inv) (offered : s.enc.obuf = some b) :
    ∃ t, txStep .reject s = (if s.full then .next s else .next t) ∧ t.enc.obuf = none := by
  obtain ⟨sent, count⟩ := inv.emitted_pos offered
  exact ⟨_, txStep_reject offered count, rfl⟩

theorem txStep_of_not_txEnabled {a : TxAnswer} (inv : a = .accept ∨ s.enc.Inv) (waits : s.txEnabled a = false) :
    txStep a s = .next s := by
  cases offered : s.enc.obuf with
  | none => exact txStep_of_empty offered a
  | some b =>
    cases a with
    | accept => simp [State.txEnabled, Enc.obufFull, offered] at waits
    | reject =>
      have full : s.full = true := by simpa [State.txEnabled, Enc.obufFull, offered] using waits
      obtain ⟨t, answer, -⟩ := txStep_reject_of_inv (inv.resolve_left (by simp)) offered
      rw [answer, if_pos full]

theorem txStep_of_txEnabled {a : TxAnswer} (inv : a = .accept ∨ s.enc.Inv) (enabled : s.txEnabled a = true) :
    ∃ t, txStep a s = .next t ∧ s.enc.obuf ≠ none ∧ t.enc.obuf = none := by
  cases offered : s.enc.obuf with
  | none => simp [State.txEnabled, Enc.obufFull, offered] at enabled
  | some b =>
    cases a with
    | accept => exact ⟨_, txStep_accept offered, by simp, rfl⟩
    | reject =>
      have room : s.full = false := by simpa [State.txEnabled, Enc.obufFull, offered] using enabled
      obtain ⟨t, answer, empty⟩ := txStep_reject_of_inv (inv.resolve_left (by simp)) offered
      exact ⟨t, by rw [answer, room, if_neg Bool.false_ne_true], by simp, empty⟩

end

/-! ## The RX transfer (R157) -/

section
variable {s : State} {x : RxItem} {rest : List RxItem}

/-- R159 to R162: the steps that `Par.ends` names are those with an event. -/
theorem Par.RxCase.ends_eq {p : Par} {m : Par × Option Event} (h : p.RxCase x m) : p.ends x = m.2.isSome := by
  cases h with
  | endOfLen phase => simp [Par.ends, phase]
  | zeroLength phase => simp [Par.ends, phase]
  | length l phase nonzero => simpa [Par.ends, phase] using nonzero
  | endOfBody phase => simp [Par.ends, phase]
  | bodyByte b phase more => simpa [Par.ends, phase] using more
  | lastByte b payload h phase last => simp [Par.ends, phase, last]

/-- An armed PAR takes what it is offered, unless that ends the frame while RSPQ is full. -/
theorem rxStep_of_armed (inv : s.par.Inv) (armed : s.par.phase ≠ .idle) (offered : s.linkRx = x :: rest) :
    ∃ t, rxStep s = (if s.rxEnabled x then .next t else .next s) ∧ t.linkRx = rest := by
  obtain ⟨⟨q, ev?⟩, case⟩ := inv.rxCase armed x
  have enabled : s.rxEnabled x = !(ev?.isSome && s.full) := by simp [State.rxEnabled, armed, case.ends_eq]
  cases ev? with
  | none => exact ⟨_, by rw [rxStep_quiet offered case, enabled]; rfl, rfl⟩
  | some ev => exact ⟨_, by rw [rxStep_report offered case, enabled]; cases s.full <;> rfl, rfl⟩

theorem rxStep_of_not_rxEnabled (inv : s.par.Inv) (offered : s.linkRx = x :: rest) (waits : s.rxEnabled x = false) :
    rxStep s = .next s := by
  by_cases idle : s.par.phase = .idle
  · exact rxStep_of_idle idle
  · obtain ⟨t, answer, -⟩ := rxStep_of_armed inv idle offered
    rw [answer, waits, if_neg Bool.false_ne_true]

theorem rxStep_of_rxEnabled (inv : s.par.Inv) (offered : s.linkRx = x :: rest) (enabled : s.rxEnabled x = true) :
    ∃ t, rxStep s = .next t ∧ t.linkRx = rest := by
  have armed : s.par.phase ≠ .idle := fun idle => by simp [State.rxEnabled, idle] at enabled
  obtain ⟨t, answer, link⟩ := rxStep_of_armed inv armed offered
  exact ⟨t, by rw [answer, if_pos enabled], link⟩

end

/-- Settles O17: each step kind waits, or is taken, by its own condition. -/
theorem stepsWaitExactlyWhenNotEnabled : Obligations.StepsWaitExactlyWhenNotEnabled :=
  fun _ inv => ⟨encStep_of_not_encEnabled, encStep_of_encEnabled, fun a empty => txStep_of_empty empty a,
    fun _ => txStep_of_not_txEnabled, fun _ => txStep_of_txEnabled, fun _ _ => rxStep_of_not_rxEnabled inv,
    fun _ _ => rxStep_of_rxEnabled inv, fun _ => portStep_of_not_wordEnabled, fun _ => portStep_of_wordEnabled⟩

/-! ## No step faults (R193, R214) -/

/-- A byte the decoder rejects is no entry of the catalog (R181 to R185). -/
theorem not_mem_catalogOpcodes_of_rejected {b : Byte} {r : DecodeReject} (h : decode (.frame b) = .error r) :
    b ∉ catalogOpcodes := by
  intro entry
  have decodes : ∀ b ∈ catalogOpcodes, ∃ i, decode (.frame b) = .ok i := by
    simp [catalogOpcodes, decode, decodeOpcode]
  obtain ⟨i, ok⟩ := decodes b entry
  cases h.symm.trans ok

/-- Running a code answers a next state, unless the code is a byte that names no catalog entry (log entry 8). -/
theorem runCode_answers (c : Code) (s : State) :
    (∃ t, runCode c s = .next t) ∨
    ∃ b, c = .frame b ∧ b ∉ catalogOpcodes ∧ runCode c s = .refused (.notInCatalog b) := by
  cases decodes : decode c with
  | ok i => exact .inl (runCode_of_decode decodes s ▸ (exec_holdsWhen i s).answers)
  | error r =>
    cases c with
    | cmd w => exact .inl (runCode_holdsWhen w s).answers
    | frame b => exact .inr ⟨b, rfl, not_mem_catalogOpcodes_of_rejected decodes, by simp [runCode, decodes]⟩

theorem portStep_answers (s : State) : ∃ t, portStep s = .next t := by
  cases held : s.port with
  | none => exact ⟨s, by rw [portStep, held]; rfl⟩
  | some w => exact portStep_of_held held ▸ (runCode_holdsWhen w _).answers

theorem popStep_answers (s : State) : ∃ t, popStep s = .next t := by
  cases queue : s.rspq with
  | nil => exact ⟨s, popStep_of_empty queue⟩
  | cons ev rest => exact ⟨_, popStep_of_cons queue⟩

theorem encStep_answers (s : State) : ∃ t, encStep s = .next t := by
  cases enabled : s.encEnabled with
  | false => exact ⟨s, encStep_of_not_encEnabled enabled⟩
  | true =>
    obtain ⟨t, next, -⟩ := encStep_of_encEnabled enabled
    exact ⟨t, next⟩

theorem txStep_answers {s : State} (inv : s.enc.Inv) (a : TxAnswer) : ∃ t, txStep a s = .next t := by
  cases enabled : s.txEnabled a with
  | false => exact ⟨s, txStep_of_not_txEnabled (.inr inv) enabled⟩
  | true =>
    obtain ⟨t, next, -⟩ := txStep_of_txEnabled (.inr inv) enabled
    exact ⟨t, next⟩

theorem rxStep_answers {s : State} (inv : s.par.Inv) : ∃ t, rxStep s = .next t := by
  cases offered : s.linkRx with
  | nil => exact ⟨s, rxStep_of_nothing offered⟩
  | cons x rest =>
    cases enabled : s.rxEnabled x with
    | false => exact ⟨s, rxStep_of_not_rxEnabled inv offered enabled⟩
    | true =>
      obtain ⟨t, next, -⟩ := rxStep_of_rxEnabled inv offered enabled
      exact ⟨t, next⟩

/-- The HOST comes to a byte that names no catalog entry, and the step is refused (log entry 8). -/
def State.RefusesEntry (s : State) (r : Result) : Prop :=
  ∃ b later, s.hostq = .issue (.frame b) :: later ∧ b ∉ catalogOpcodes ∧ r = .refused (.notInCatalog b)

theorem hostStep_answers (s : State) : (∃ t, hostStep s = .next t) ∨ s.RefusesEntry (hostStep s) := by
  cases script : s.hostq with
  | nil => exact .inl ⟨s, by rw [hostStep, script]; rfl⟩
  | cons a later =>
    cases a with
    | issue c =>
      cases port : s.port with
      | some w => exact .inl ⟨s, by simp only [hostStep, script, port, notEnabled]⟩
      | none =>
        have runs : hostStep s = runCode c (s.setHostq later) := by simp only [hostStep, script, port]
        rw [runs]
        refine (runCode_answers c _).imp_right ?_
        rintro ⟨b, rfl, unknown, refused⟩
        exact ⟨b, later, script, unknown, refused⟩
    | rst => exact .inl ⟨_, hostStep_of_rst script⟩
    | pop =>
      cases queue : s.rspq with
      | nil => exact .inl ⟨s, hostStep_of_empty script (.inl rfl) queue⟩
      | cons ev rest => exact .inl (hostStep_of_pop script queue ▸ popStep_answers _)
    | wait k =>
      cases queue : s.rspq with
      | nil => exact .inl ⟨s, hostStep_of_empty script (.inr ⟨k, rfl⟩) queue⟩
      | cons ev rest =>
        rw [hostStep_of_wait script queue]
        split
        · exact .inl (popStep_answers _)
        · exact .inl (popStep_answers s)

theorem fire_answers {s : State} (enc : s.enc.Inv) (par : s.par.Inv) (τ : Turn) :
    (∃ t, fire τ s = .next t) ∨ (τ = .host ∧ s.RefusesEntry (fire τ s)) := by
  cases τ with
  | host => exact (hostStep_answers s).imp_right fun refused => ⟨rfl, refused⟩
  | port => exact .inl (portStep_answers s)
  | pop => exact .inl (popStep_answers s)
  | enc => exact .inl (encStep_answers s)
  | tx a => exact .inl (txStep_answers enc a)
  | rx => exact .inl (rxStep_answers par)
  | rst | plan | arrive => exact .inl ⟨_, rfl⟩

/-- Settles O50: R27 and R29 rule the faults out, and the refusal is that of an unknown catalog entry. -/
theorem noStepFaultsFromTheInvariant : Obligations.NoStepFaultsFromTheInvariant := by
  intro s inv
  have kept := inv.of_sameBlock (State.SameBlock.dropTurn s)
  refine (fire_answers kept.enc kept.par s.nextTurn).imp_right ?_
  rintro ⟨turn, b, later, script, unknown, refused⟩
  exact ⟨b, later, turn, by simpa using script, unknown, refused⟩

end Sys2Proof.Machine
end

section
/-! SUPPORT. Proofs of the statements about command execution (44_control.md), part 3: what a command leaves unchanged
(R197), and which events each step can append (R198). -/

namespace Sys2Proof.Machine

/-! ## The frame of the commands (R63, R197) -/

/-- What running a code keeps: the logs, what was popped, the LINK's items, the parameter and the schedule, and the events
already queued. -/
structure State.RunFrame (s t : State) : Prop where
  txlog : t.txlog = s.txlog
  rxlog : t.rxlog = s.rxlog
  popped : t.popped = s.popped
  linkRx : t.linkRx = s.linkRx
  rspqDepth : t.rspqDepth = s.rspqDepth
  turns : t.turns = s.turns
  tick : t.tick = s.tick
  rspq : ∃ new, t.rspq = s.rspq ++ new

theorem Ran.frame {c : Code} {s t : State} (h : Ran c s t) : s.RunFrame t := by
  cases h with
  | event ev => exact ⟨rfl, rfl, rfl, rfl, rfl, rfl, rfl, [ev], rfl⟩
  | _ => exact ⟨rfl, rfl, rfl, rfl, rfl, rfl, rfl, [], (List.append_nil _).symm⟩

theorem Ck.after_of_other {i : Instr} (k : Ck) (clr : i ≠ .ckClr) (add : ∀ b, i ≠ .ckAdd b) : k.after i = k := by
  cases i with
  | ckClr => exact absurd rfl clr
  | ckAdd b => exact absurd rfl (add b)
  | _ => rfl

theorem Enc.after_of_other {i : Instr} (e : Enc) (start : ∀ n, i ≠ .encStart n) (push : ∀ b, i ≠ .encPush b) :
    e.after i = e := by
  cases i with
  | encStart n => exact absurd rfl (start n)
  | encPush b => exact absurd rfl (push b)
  | _ => rfl

theorem Par.after_of_other {i : Instr} (p : Par) (other : i ≠ .parStart) : p.after i = p := by
  cases i with
  | parStart => exact absurd rfl other
  | _ => rfl

theorem respondOrHold_hostq {w : Word} {ev : Event} {s t : State} (h : respondOrHold w ev s = .next t) :
    t.hostq = s.hostq := by
  rcases respondOrHold_next h with ⟨-, rfl⟩ | ⟨-, rfl⟩ <;> rfl

/-- A command word leaves the HOST's script alone. -/
theorem exec_hostq {i : Instr} {w : Word} {s t : State} (code : encode i = .cmd w) (h : exec i s = .next t) :
    t.hostq = s.hostq := by
  cases i with
  | nop | ckClr | ckAdd => cases h; rfl
  | ckRd => exact respondOrHold_hostq h
  | statRd => exact respondOrHold_hostq h
  | encStart n =>
    rcases execEncStart_next h with ⟨-, -, rfl⟩ | ⟨-, -, rfl⟩ | ⟨-, -, -, rfl⟩ | ⟨-, -, -, rfl⟩ | ⟨-, -, rfl⟩ <;> rfl
  | encPush b =>
    rcases execEncPush_next h with ⟨-, -, rfl⟩ | ⟨-, -, rfl⟩ | ⟨-, -, rfl⟩ | ⟨-, -, rfl⟩ <;> rfl
  | parStart => rcases execParStart_next h with ⟨-, -, rfl⟩ | ⟨-, -, rfl⟩ | ⟨-, rfl⟩ <;> rfl
  | aimOn | aimOff | illuminationOn | illuminationOff | capabilitiesRequest => cases code

/-- An instruction is a command word or one of the five catalog entries (R89). -/
theorem command_or_entry (i : Instr) : (∃ w, encode i = .cmd w) ∨
    i = .aimOn ∨ i = .aimOff ∨ i = .illuminationOn ∨ i = .illuminationOff ∨ i = .capabilitiesRequest := by
  cases i with
  | aimOn | aimOff | illuminationOn | illuminationOff | capabilitiesRequest => simp
  | _ => exact .inl ⟨_, rfl⟩

/-- Settles O18: the frame of running a code, and the units as functions of what they were. -/
theorem commandsChangeOnlyTheirOwnUnit : Obligations.CommandsChangeOnlyTheirOwnUnit := by
  intro i s t h
  obtain ⟨txlog, rxlog, popped, linkRx, rspqDepth, turns, tick, rspq⟩ := (exec_ran h).frame
  obtain ⟨ck, enc, par⟩ := exec_units h
  refine ⟨txlog, rxlog, popped, linkRx, rspqDepth, turns, tick, rspq, ?_, ?_, ?_, ?_⟩
  · refine or_iff_not_imp_left.mpr fun other => ?_
    obtain ⟨clr, add⟩ := not_or.mp other
    exact ck.trans (s.ck.after_of_other clr (not_exists.mp add))
  · refine or_iff_not_imp_left.mpr fun other => ?_
    obtain ⟨start, push⟩ := not_or.mp other
    exact enc.trans (s.enc.after_of_other (not_exists.mp start) (not_exists.mp push))
  · exact or_iff_not_imp_left.mpr fun other => par.trans (s.par.after_of_other other)
  · exact (command_or_entry i).symm.imp_right fun ⟨_, code⟩ => exec_hostq code h

/-! ## The events of a step (R198) -/

section
variable {s t : State} {allowed : Event → Prop}

theorem State.appendsOnly_of_eq (h : t.rspq = s.rspq) : s.appendsOnly t allowed := .inl h

theorem State.appendsOnly_respond {u : State} {ev : Event} (same : u.rspq = s.rspq) (h : allowed ev) :
    s.appendsOnly (u.respond ev) allowed :=
  .inr ⟨ev, congrArg (· ++ [ev]) same, h⟩

theorem respondOrHold_appendsOnly {w : Word} {ev : Event} (h : respondOrHold w ev s = .next t) (ok : allowed ev) :
    s.appendsOnly t allowed := by
  rcases respondOrHold_next h with ⟨-, rfl⟩ | ⟨-, rfl⟩
  · exact State.appendsOnly_of_eq rfl
  · exact State.appendsOnly_respond rfl ok

theorem raiseOrHold_appendsOnly {w : Word} {e : ErrInfo} (h : raiseOrHold w e s = .next t) (ok : allowed (.err e)) :
    s.appendsOnly t allowed :=
  respondOrHold_appendsOnly h ok

end

section
variable {s t : State}

theorem execEncStart_appendsOnly {n : Byte} (h : execEncStart n s = .next t) :
    s.appendsOnly t fun ev => (∃ w p, ev = .err (.sequenceError .enc w p)) ∨ ev = .err (.frameTooLarge n) := by
  rcases execEncStart_next h with ⟨-, -, rfl⟩ | ⟨-, -, rfl⟩ | ⟨-, -, -, rfl⟩ | ⟨-, -, -, rfl⟩ | ⟨-, -, rfl⟩
  · exact State.appendsOnly_of_eq rfl
  · exact State.appendsOnly_respond rfl (.inl ⟨_, _, rfl⟩)
  · exact State.appendsOnly_of_eq rfl
  · exact State.appendsOnly_respond rfl (.inr rfl)
  · exact State.appendsOnly_of_eq rfl

theorem execEncPush_appendsOnly {b : Byte} (h : execEncPush b s = .next t) :
    s.appendsOnly t fun ev => ∃ w p, ev = .err (.sequenceError .enc w p) := by
  rcases execEncPush_next h with ⟨-, -, rfl⟩ | ⟨-, -, rfl⟩ | ⟨-, -, rfl⟩ | ⟨-, -, rfl⟩
  · exact State.appendsOnly_of_eq rfl
  · exact State.appendsOnly_respond rfl ⟨_, _, rfl⟩
  · exact State.appendsOnly_of_eq rfl
  · exact State.appendsOnly_of_eq rfl

theorem execParStart_appendsOnly (h : execParStart s = .next t) :
    s.appendsOnly t fun ev => ∃ w p, ev = .err (.sequenceError .par w p) := by
  rcases execParStart_next h with ⟨-, -, rfl⟩ | ⟨-, -, rfl⟩ | ⟨-, rfl⟩
  · exact State.appendsOnly_of_eq rfl
  · exact State.appendsOnly_respond rfl ⟨_, _, rfl⟩
  · exact State.appendsOnly_of_eq rfl

theorem encStep_appendsOnly (h : encStep s = .next t) :
    s.appendsOnly t fun ev => s.enc.phase = .drain ∧ ∃ l, ev = .encDone l := by
  rcases encStep_next h with rfl | ⟨-, -, rfl⟩ | ⟨-, -, rfl⟩ | ⟨-, phase, -, rfl⟩
  · exact State.appendsOnly_of_eq rfl
  · exact State.appendsOnly_of_eq rfl
  · exact State.appendsOnly_of_eq rfl
  · exact State.appendsOnly_respond rfl ⟨phase, _, rfl⟩

theorem txStep_accept_rspq (h : txStep .accept s = .next t) : t.rspq = s.rspq := by
  rcases txStep_next h with rfl | ⟨b, -, -, rfl⟩ | ⟨b, sent, reject, -⟩
  · rfl
  · rfl
  · cases reject

theorem txStep_reject_appendsOnly (h : txStep .reject s = .next t) :
    s.appendsOnly t fun ev => ∃ e g, ev = .err (.transportError .enc e g) := by
  rcases txStep_next h with rfl | ⟨b, accept, -⟩ | ⟨b, sent, -, -, -, -, rfl⟩
  · exact State.appendsOnly_of_eq rfl
  · cases accept
  · exact State.appendsOnly_respond rfl ⟨_, _, rfl⟩

end

/-- The events with which PAR ends a frame (R159 to R162): FRAME on the last byte alone, or one of PAR's errors. -/
def Par.EndsWith (p : Par) (ev : Event) : Prop :=
  (p.phase = .body ∧ p.rem = 1 ∧ ∃ l payload c, ev = .frame l payload c) ∨
    (∃ e g, ev = .err (.transportError .par e g)) ∨ (∃ l, ev = .err (.malformedFrame l)) ∨
    ∃ e a, ev = .err (.checksumMismatch e a)

/-- R161: the last byte is judged to complete a frame or to break its checksum. -/
theorem Par.judge_event {p : Par} {b : Byte} {ev : Event} (h : p.judge b = .ok ev) :
    (∃ l payload c, ev = .frame l payload c) ∨ ∃ e a, ev = .err (.checksumMismatch e a) := by
  simp only [Par.judge] at h
  split at h
  · cases h
  · split at h
    · split at h
      · cases h; exact .inl ⟨_, _, _, rfl⟩
      · cases h; exact .inr ⟨_, _, rfl⟩
    · cases h

/-- Whatever PAR's registers are, R29 or not. -/
theorem Par.Takes.endsWith {p q : Par} {x : RxItem} {ev : Event} (h : p.Takes x (q, some ev)) : p.EndsWith ev := by
  rcases h with ⟨-, h⟩ | ⟨phase, h⟩
  · cases x with
    | endOfStream => cases h; exact .inr (.inl ⟨_, _, rfl⟩)
    | byte l =>
      rw [Par.takeLen] at h
      split at h <;> cases h
      exact .inr (.inr (.inl ⟨_, rfl⟩))
  · cases x with
    | endOfStream => cases h; exact .inr (.inl ⟨_, _, rfl⟩)
    | byte b =>
      rw [Par.takeBody] at h
      split at h
      · cases h
      · split at h
        · rename_i last
          split at h
          · rename_i judged
            cases h
            rcases Par.judge_event judged with frame | mismatch
            · exact .inl ⟨phase, BitVec.eq_of_toNat_eq last, frame⟩
            · exact .inr (.inr (.inr mismatch))
          · cases h
        · cases h

theorem rxStep_appendsOnly {s t : State} (h : rxStep s = .next t) : s.appendsOnly t s.par.EndsWith := by
  rcases rxStep_next h with rfl | ⟨x, rest, ⟨q, ev?⟩, -, takes, ⟨rfl, rfl⟩ | ⟨ev, rfl, -, rfl⟩⟩
  · exact State.appendsOnly_of_eq rfl
  · exact State.appendsOnly_of_eq rfl
  · exact State.appendsOnly_respond rfl (Par.Takes.endsWith takes)

/-- Settles O60: row by row, what the step can answer. -/
theorem eventsEachStepCanAppend : Obligations.EventsEachStepCanAppend := by
  refine fun s t => ⟨fun w r rejected h => ?_, fun i h => ?_, encStep_appendsOnly, txStep_accept_rspq,
    txStep_reject_appendsOnly, rxStep_appendsOnly⟩
  · exact raiseOrHold_appendsOnly (runCode_of_illegal rejected s ▸ h) rfl
  · cases i with
    | nop | ckClr | ckAdd => cases h; rfl
    | ckRd => exact respondOrHold_appendsOnly h ⟨_, rfl⟩
    | statRd => exact respondOrHold_appendsOnly h ⟨_, rfl⟩
    | encStart n => exact execEncStart_appendsOnly h
    | encPush b => exact execEncPush_appendsOnly h
    | parStart => exact execParStart_appendsOnly h
    | aimOn | aimOff | illuminationOn | illuminationOff | capabilitiesRequest => cases h; rfl

end Sys2Proof.Machine
end

section
/-! SUPPORT. Proofs of the statements about the errors (60_exceptions.md): the table of the error kinds, and what a command
that raises one of them leaves as it was. -/

namespace Sys2Proof.Machine

/-- Settles O58: each kind by the equations of `ErrInfo.code`, `ErrInfo.unit` and `UnitId.code`. -/
theorem errorCodesAndUnits : Obligations.ErrorCodesAndUnits :=
  ⟨fun _ => ⟨rfl, rfl⟩, fun _ => ⟨rfl, rfl⟩, fun _ _ => ⟨rfl, rfl⟩, fun _ _ _ => ⟨rfl, rfl⟩, fun _ => ⟨rfl, rfl⟩,
    fun _ _ _ => ⟨rfl, rfl⟩, rfl, rfl, rfl, rfl⟩

/-! ## The errors of a command (R210, R214) -/

/-- The event is no error, or one of those a command raises (R210); the errors of the transfers are left out. -/
def Event.OfCommand : Event → Prop
  | .err e => e.code = 1 ∨ e.code = 5 ∨ e.code = 6
  | .ckval _ | .status _ | .encDone _ | .frame _ _ _ => True

section
variable {s t : State} {ev : Event}

theorem State.appendsOnly.mono {P Q : Event → Prop} (h : s.appendsOnly t P) (imp : ∀ ev, P ev → Q ev) :
    s.appendsOnly t Q :=
  h.imp_right fun ⟨ev, grew, ok⟩ => ⟨ev, grew, imp ev ok⟩

theorem State.appendsOnly.allowed {P : Event → Prop} (h : s.appendsOnly t P) (grew : t.rspq = s.rspq ++ [ev]) : P ev := by
  rcases h with same | ⟨ev', grew', ok⟩
  · simp [same] at grew
  · obtain rfl : ev' = ev := by simpa [grew'] using grew
    exact ok

theorem exec_appendsOnly {i : Instr} (h : exec i s = .next t) : s.appendsOnly t Event.OfCommand := by
  cases i with
  | nop | ckClr | ckAdd => cases h; exact State.appendsOnly_of_eq rfl
  | ckRd => exact respondOrHold_appendsOnly h trivial
  | statRd => exact respondOrHold_appendsOnly h trivial
  | encStart n =>
    refine (execEncStart_appendsOnly h).mono ?_
    rintro _ (⟨w, p, rfl⟩ | rfl)
    · exact .inr (.inr rfl)
    · exact .inl rfl
  | encPush b =>
    refine (execEncPush_appendsOnly h).mono ?_
    rintro _ ⟨w, p, rfl⟩
    exact .inr (.inr rfl)
  | parStart =>
    refine (execParStart_appendsOnly h).mono ?_
    rintro _ ⟨w, p, rfl⟩
    exact .inr (.inr rfl)
  | aimOn | aimOff | illuminationOn | illuminationOff | capabilitiesRequest =>
    cases h; exact State.appendsOnly_of_eq rfl

theorem runCode_appendsOnly {c : Code} (h : runCode c s = .next t) : s.appendsOnly t Event.OfCommand := by
  cases decodes : decode c with
  | ok i => exact exec_appendsOnly (runCode_of_decode decodes s ▸ h)
  | error r =>
    cases c with
    | cmd w => exact raiseOrHold_appendsOnly (runCode_of_illegal decodes s ▸ h) (.inr (.inl rfl))
    | frame b => simp [runCode, decodes] at h

/-- Running a code makes one change, so an event is all of it. -/
theorem Ran.eq_respond {c : Code} (h : Ran c s t) (grew : t.rspq = s.rspq ++ [ev]) : t = s.respond ev := by
  cases h with
  | event ev' =>
    obtain rfl : ev' = ev := by simpa using grew
    rfl
  | _ => simp at grew

end

/-- Settles O19: the event is the one change of the run, and an error of a command has one of the three codes. -/
theorem commandErrorsChangeNoUnit : Obligations.CommandErrorsChangeNoUnit :=
  fun _ _ _ _ h grew => ⟨(runCode_ran h).eq_respond grew, (runCode_appendsOnly h).allowed grew⟩

end Sys2Proof.Machine
end

section
/-! SUPPORT. Proofs of the statements about reset and hazards (70_reset_and_hazards.md): what RST keeps (R240), and that
nothing moves once a run is over (R255). What it means that a run is over is taken apart once (`State.Settled`). -/

namespace Sys2Proof.Machine

/-! ## Reset (R240) -/

/-- Settles O2: the state after RST is `State.rst`, which sets the units, RSPQ and the command port and no other field. -/
theorem rstResetsUnitsAndKeepsLogs : Obligations.RstResetsUnitsAndKeepsLogs :=
  fun s => ⟨s.rst, rfl, rfl, rfl, rfl, rfl, rfl, rfl, rfl, rfl, rfl, rfl, rfl, rfl, rfl, rfl, rfl, rfl, rfl, rfl, rfl, rfl, rfl⟩

/-! ## A run that is over (R255) -/

/-- The run is over (R255, log entry 13), part by part: the word, ENC, the LINK's two sides, and the HOST's plans. -/
structure State.Settled (s : State) : Prop where
  word : ∀ w, s.port = some w → s.wordEnabled w = false
  enc : s.encEnabled = false
  tx : s.enc.obuf = none
  rx : ∀ x rest, s.linkRx = x :: rest → s.rxEnabled x = false
  script : ∀ a ∈ s.hostq, performs a = false
  turns : ∀ τ ∈ s.turns, turnPerforms τ = false

theorem performs_eq_false_iff (a : HostAct) : performs a = false ↔ a = .rst := by
  cases a <;> simp [performs]

theorem State.txEnabled_accept_eq_false_iff (s : State) : s.txEnabled .accept = false ↔ s.enc.obuf = none := by
  simp [State.txEnabled, Enc.obufFull]

theorem State.busy_eq_false_iff (s : State) :
    s.busy = false ↔ (∀ w, s.port = some w → s.wordEnabled w = false) ∧ s.encEnabled = false ∧ s.enc.obuf = none ∧
      ∀ x rest, s.linkRx = x :: rest → s.rxEnabled x = false := by
  have noWord : s.port.any s.wordEnabled = false ↔ ∀ w, s.port = some w → s.wordEnabled w = false := by
    cases s.port <;> simp
  have noItem : s.linkRx.head?.any s.rxEnabled = false ↔ ∀ x rest, s.linkRx = x :: rest → s.rxEnabled x = false := by
    cases s.linkRx <;> simp
  simp only [State.busy, Bool.or_eq_false_iff, noWord, s.txEnabled_accept_eq_false_iff, noItem, and_assoc]

theorem State.hostDone_iff (s : State) :
    s.hostDone = true ↔ (∀ a ∈ s.hostq, performs a = false) ∧ ∀ τ ∈ s.turns, turnPerforms τ = false := by
  simp [State.hostDone]

theorem State.runOver_iff_settled (s : State) : s.runOver = true ↔ s.Settled := by
  rw [State.runOver, Bool.and_eq_true, Bool.not_eq_true', s.busy_eq_false_iff, s.hostDone_iff]
  exact ⟨fun ⟨⟨word, enc, tx, rx⟩, script, turns⟩ => ⟨word, enc, tx, rx, script, turns⟩,
    fun ⟨word, enc, tx, rx, script, turns⟩ => ⟨⟨word, enc, tx, rx⟩, script, turns⟩⟩

section
variable {s : State}

/-- A reset leaves nothing enabled, whatever was enabled before it (R240). -/
theorem State.rst_settled (script : ∀ a ∈ s.hostq, performs a = false) (turns : ∀ τ ∈ s.turns, turnPerforms τ = false) :
    s.rst.Settled where
  word := by simp
  enc := rfl
  tx := rfl
  rx := fun _ _ _ => rfl
  script := script
  turns := turns

/-! ## The steps of the block and the LINK -/

theorem State.Settled.portStep_eq (h : s.Settled) : portStep s = .next s := by
  cases held : s.port with
  | none => rw [portStep, held]; rfl
  | some w => exact portStep_of_not_wordEnabled held (h.word w held)

theorem State.Settled.rxStep_eq (h : s.Settled) (inv : s.par.Inv) : rxStep s = .next s := by
  cases offered : s.linkRx with
  | nil => exact rxStep_of_nothing offered
  | cons x rest => exact rxStep_of_not_rxEnabled inv offered (h.rx x rest offered)

/-- The HOST has at most a reset to perform. -/
theorem State.Settled.hostStep_cases (h : s.Settled) :
    hostStep s = .next s ∨ ∃ later, s.hostq = .rst :: later ∧ hostStep s = .next (s.setHostq later).rst := by
  cases script : s.hostq with
  | nil => exact .inl (by rw [hostStep, script]; rfl)
  | cons a later =>
    obtain rfl : a = .rst := (performs_eq_false_iff a).mp (h.script a (by simp [script]))
    exact .inr ⟨later, rfl, hostStep_of_rst script⟩

/-! ## A step chosen to come next -/

/-- The answer `r` to the turn `τ` in `s`: unless it is a reset, what is observed stays as it is, and unless it is an arrival,
the run stays over. -/
def State.StaysOver (s : State) (τ : Turn) (r : Result) : Prop :=
  ∃ t, r = .next t ∧ (s.ResetBy τ ∨ t.observe = s.observe) ∧ ((∃ x, τ = .arrive x) ∨ t.Settled)

/-- The turns that remain are those by which the HOST neither pops nor plans to. -/
theorem State.Settled.fire_staysOver {τ : Turn} (h : s.Settled) (inv : s.par.Inv) (turn : turnPerforms τ = false) :
    s.StaysOver τ (fire τ s) := by
  have waits (next : fire τ s = .next s) : s.StaysOver τ (fire τ s) := ⟨s, next, .inr rfl, .inr h⟩
  cases τ with
  | host =>
    obtain next | ⟨later, script, next⟩ := h.hostStep_cases
    · exact waits next
    · have rest : ∀ a ∈ later, performs a = false := fun a ha => h.script a (by simp [script, ha])
      exact ⟨_, next, .inl (.inr ⟨rfl, by rw [script]; rfl⟩), .inr (State.rst_settled rest h.turns)⟩
  | port => exact waits h.portStep_eq
  | pop => cases turn
  | rst => exact ⟨_, rfl, .inl (.inl rfl), .inr (State.rst_settled h.script h.turns)⟩
  | enc => exact waits (encStep_of_not_encEnabled h.enc)
  | tx a => exact waits (txStep_of_empty h.tx a)
  | rx => exact waits (h.rxStep_eq inv)
  | plan a =>
    have script : ∀ b ∈ s.hostq ++ [a], performs b = false :=
      List.forall_mem_append.mpr ⟨h.script, List.forall_mem_singleton.mpr turn⟩
    exact ⟨_, rfl, .inr rfl, .inr { h with script }⟩
  | arrive x => exact ⟨_, rfl, .inr rfl, .inl ⟨x, rfl⟩⟩

theorem State.Settled.step_staysOver (h : s.Settled) (inv : s.par.Inv) (chosen : s.turns ≠ []) :
    s.StaysOver s.nextTurn (step s) := by
  obtain ⟨τ, later, turns⟩ := List.exists_cons_of_ne_nil chosen
  obtain ⟨turn, rest⟩ : turnPerforms τ = false ∧ ∀ σ ∈ later, turnPerforms σ = false := by
    simpa [turns] using h.turns
  have settled : ({ s with turns := later } : State).Settled := { h with turns := rest }
  rw [step_of_cons turns, State.nextTurn_of_cons turns]
  exact settled.fire_staysOver inv turn

/-! ## A held word -/

/-- With ENC and PAR in IDLE and RSPQ empty no command holds (R193). -/
theorem State.holds_of_idle (enc : s.enc.phase = .idle) (par : s.par.phase = .idle) (queue : s.rspq = []) (i : Instr) :
    s.holds i = false := by
  cases i <;> simp [State.holds, full_of_empty queue, enc, par]

theorem State.wordEnabled_of_idle (enc : s.enc.phase = .idle) (par : s.par.phase = .idle) (queue : s.rspq = []) (w : Word) :
    s.wordEnabled w = true := by
  unfold State.wordEnabled
  split
  · rw [State.holds_of_idle enc par queue]; rfl
  · rw [full_of_empty queue]; rfl

/-- A completed run leaves no word held, since that word would be enabled. -/
theorem State.port_of_completed (done : s.completed = true) : s.port = none := by
  obtain ⟨⟨⟨ended, enc⟩, par⟩, queue⟩ :
      ((s.runOver = true ∧ s.enc.phase = .idle) ∧ s.par.phase = .idle) ∧ s.rspq = [] := by
    simpa [State.completed] using done
  refine Option.eq_none_iff_forall_ne_some.mpr fun w held => ?_
  have waits := ((State.runOver_iff_settled s).mp ended).word w held
  exact absurd (State.wordEnabled_of_idle enc par queue w) (by simp [waits])

end

/-- Settles O59: the steps of the block and the LINK, the HOST's script, the step chosen next, and a held word. -/
theorem nothingMovesWhenTheRunIsOver : Obligations.NothingMovesWhenTheRunIsOver := by
  intro s inv ended
  have settled := (State.runOver_iff_settled s).mp ended
  refine ⟨⟨settled.portStep_eq, encStep_of_not_encEnabled settled.enc, txStep_of_empty settled.tx, settled.rxStep_eq inv⟩,
    settled.hostStep_cases, fun chosen => ?_, fun held => Bool.eq_false_iff.mpr (mt State.port_of_completed held)⟩
  obtain ⟨t, next, observed, stays⟩ := settled.step_staysOver inv chosen
  exact ⟨t, next, or_assoc.mp observed, stays.imp_right (State.runOver_iff_settled t).mpr⟩

end Sys2Proof.Machine
end
